-- ==== Sys2Proof/Word.lean ====
section
/-! DEFINITION. The widths of the machine's values (spec 00_scope R5, R8). Everything is unsigned. -/

namespace Sys2Proof

/-- 8 bits: a `v` register, a timer, a RAM byte, the immediate `kk` (R5 `XLEN`, R71). -/
abbrev Byte := BitVec 8

/-- 16 bits: an instruction word, `pc`, `i`, a stack entry (R5 `ILEN`, `PC_WIDTH`, `I_WIDTH`). -/
abbrev Word := BitVec 16

/-- 12 bits: a RAM address, and the field `nnn` (R50, R71). -/
abbrev Addr := BitVec 12

end Sys2Proof
end

