-- ==== Sys2Proof/Syntax.lean ====
section
/-! DEFINITION. The instructions: the 34 of the opcode map (spec 30_encoding R74, in its order) and `unimpl`, every
other word (R76, R97). An operand can hold exactly the values its field can (R71), so an operand out of range cannot be
written down. -/

namespace Sys2Proof

/-- A register selector `x` or `y` (R20: every 4-bit value names a register). The same 16 values index the keypad and
count the rows of a sprite. -/
abbrev Reg := Fin 16

inductive Instr where
  /-- `00E0` CLS: clear the display (R151). -/
  | cls
  /-- `00EE` RET: return from subroutine (R100). -/
  | ret
  /-- `1nnn` JP nnn (R101). -/
  | jp (nnn : Addr)
  /-- `2nnn` CALL nnn (R102). -/
  | call (nnn : Addr)
  /-- `3xkk` SE Vx, kk (R103). -/
  | seImm (x : Reg) (kk : Byte)
  /-- `4xkk` SNE Vx, kk (R104). -/
  | sneImm (x : Reg) (kk : Byte)
  /-- `5xy0` SE Vx, Vy (R105). -/
  | seReg (x y : Reg)
  /-- `9xy0` SNE Vx, Vy (R106). -/
  | sneReg (x y : Reg)
  /-- `6xkk` LD Vx, kk (R121). -/
  | ldImm (x : Reg) (kk : Byte)
  /-- `7xkk` ADD Vx, kk (R122). -/
  | addImm (x : Reg) (kk : Byte)
  /-- `8xy0` LD Vx, Vy (R123). -/
  | ldReg (x y : Reg)
  /-- `8xy1` OR Vx, Vy (R124). -/
  | orReg (x y : Reg)
  /-- `8xy2` AND Vx, Vy (R125). -/
  | andReg (x y : Reg)
  /-- `8xy3` XOR Vx, Vy (R126). -/
  | xorReg (x y : Reg)
  /-- `8xy4` ADD Vx, Vy (R127). -/
  | addReg (x y : Reg)
  /-- `8xy5` SUB Vx, Vy (R128). -/
  | sub (x y : Reg)
  /-- `8xy6` SHR Vx, Vy (R129). -/
  | shr (x y : Reg)
  /-- `8xy7` SUBN Vx, Vy (R130). -/
  | subn (x y : Reg)
  /-- `8xyE` SHL Vx, Vy (R131). -/
  | shl (x y : Reg)
  /-- `Annn` LD I, nnn (R140). -/
  | ldI (nnn : Addr)
  /-- `Bnnn` JP V0, nnn (R108). -/
  | jpV0 (nnn : Addr)
  /-- `Cxkk` RND Vx, kk (R132). -/
  | rnd (x : Reg) (kk : Byte)
  /-- `Dxyn` DRW Vx, Vy, n (R152). -/
  | drw (x y : Reg) (n : Fin 16)
  /-- `Ex9E` SKP Vx (R160). -/
  | skp (x : Reg)
  /-- `ExA1` SKNP Vx (R161). -/
  | sknp (x : Reg)
  /-- `Fx07` LD Vx, DT (R163). -/
  | ldVxDt (x : Reg)
  /-- `Fx15` LD DT, Vx (R164). -/
  | ldDtVx (x : Reg)
  /-- `Fx18` LD ST, Vx (R165). -/
  | ldStVx (x : Reg)
  /-- `Fx1E` ADD I, Vx (R141). -/
  | addI (x : Reg)
  /-- `Fx29` LD F, Vx (R142). -/
  | ldF (x : Reg)
  /-- `Fx33` LD B, Vx (R143). -/
  | ldB (x : Reg)
  /-- `Fx55` LD [I], Vx (R144). -/
  | storeRegs (x : Reg)
  /-- `Fx65` LD Vx, [I] (R145). -/
  | loadRegs (x : Reg)
  /-- `Fx0A` LD Vx, K (R162). -/
  | ldVxK (x : Reg)
  /-- Any word `w` that is none of the above (R76, R97): a no-op that emits a diagnostic event. -/
  | unimpl (w : Word)
  deriving DecidableEq, Repr

end Sys2Proof
end

