-- ==== Sys2Proof/Decode.lean ====
section
/-! DEFINITION. Decoding (spec 30_encoding R70 to R78) and the encoder written from the same tables. Decoding of a word
is total: every word is one of the 34 instructions or `unimpl` (R75). The one thing the byte decoder rejects is a list
too short to hold a word. -/

namespace Sys2Proof

/-- `word(b0, b1) = b0 * 256 + b1` (R9, R51): the byte at the lower address supplies bits 15..8. -/
def word (b0 b1 : Byte) : Word := b0 ++ b1

/-! The six fields of R71. -/

/-- `op = w[15:12]`. -/
def opField (w : Word) : Nat := (w.extractLsb 15 12).toNat
/-- `x = w[11:8]`. -/
def xField (w : Word) : Reg := (w.extractLsb 11 8).toFin
/-- `y = w[7:4]`. -/
def yField (w : Word) : Reg := (w.extractLsb 7 4).toFin
/-- `n = w[3:0]`. -/
def nField (w : Word) : Fin 16 := (w.extractLsb 3 0).toFin
/-- `kk = w[7:0]`. -/
def kkField (w : Word) : Byte := w.extractLsb 7 0
/-- `nnn = w[11:0]`. -/
def nnnField (w : Word) : Addr := w.extractLsb 11 0

/-! R75's procedure, one definition for each group of op codes that looks further than `op`. -/

/-- R75, case 0x0: the whole word decides. -/
def decodeGroup0 (w : Word) : Instr :=
  if w = 0x00E0 then .cls
  else if w = 0x00EE then .ret
  else .unimpl w

/-- R75, case 0x8: the low nibble is the minor function code. -/
def decodeGroup8 (w : Word) : Instr :=
  match (nField w).val with
  | 0x0 => .ldReg (xField w) (yField w)
  | 0x1 => .orReg (xField w) (yField w)
  | 0x2 => .andReg (xField w) (yField w)
  | 0x3 => .xorReg (xField w) (yField w)
  | 0x4 => .addReg (xField w) (yField w)
  | 0x5 => .sub (xField w) (yField w)
  | 0x6 => .shr (xField w) (yField w)
  | 0x7 => .subn (xField w) (yField w)
  | 0xE => .shl (xField w) (yField w)
  | _ => .unimpl w

/-- R75, case 0xE: the low byte is the minor function code. -/
def decodeGroupE (w : Word) : Instr :=
  match (kkField w).toNat with
  | 0x9E => .skp (xField w)
  | 0xA1 => .sknp (xField w)
  | _ => .unimpl w

/-- R75, case 0xF: the low byte is the minor function code. -/
def decodeGroupF (w : Word) : Instr :=
  match (kkField w).toNat with
  | 0x07 => .ldVxDt (xField w)
  | 0x0A => .ldVxK (xField w)
  | 0x15 => .ldDtVx (xField w)
  | 0x18 => .ldStVx (xField w)
  | 0x1E => .addI (xField w)
  | 0x29 => .ldF (xField w)
  | 0x33 => .ldB (xField w)
  | 0x55 => .storeRegs (xField w)
  | 0x65 => .loadRegs (xField w)
  | _ => .unimpl w

/-- R75 `decode(w)`: the major op code selects the group. Patterns are read exactly (D27). `op` is below 16, so the
last case is 0xF. -/
def decodeWord (w : Word) : Instr :=
  match opField w with
  | 0x0 => decodeGroup0 w
  | 0x1 => .jp (nnnField w)
  | 0x2 => .call (nnnField w)
  | 0x3 => .seImm (xField w) (kkField w)
  | 0x4 => .sneImm (xField w) (kkField w)
  | 0x5 => if nField w = 0 then .seReg (xField w) (yField w) else .unimpl w
  | 0x6 => .ldImm (xField w) (kkField w)
  | 0x7 => .addImm (xField w) (kkField w)
  | 0x8 => decodeGroup8 w
  | 0x9 => if nField w = 0 then .sneReg (xField w) (yField w) else .unimpl w
  | 0xA => .ldI (nnnField w)
  | 0xB => .jpV0 (nnnField w)
  | 0xC => .rnd (xField w) (kkField w)
  | 0xD => .drw (xField w) (yField w) (nField w)
  | 0xE => decodeGroupE w
  | _ => decodeGroupF w

/-- Why the byte decoder answers no instruction. -/
inductive DecodeError where
  /-- Fewer than two bytes: no whole word (R70). The machine itself never meets this: a fetch takes both bytes or faults
  (R52). -/
  | truncated
  deriving DecidableEq, Repr

/-- Decode the first instruction of a list of bytes and answer the rest (R51, R70). -/
def decode : List Byte → Except DecodeError (Instr × List Byte)
  | b0 :: b1 :: rest => .ok (decodeWord (word b0 b1), rest)
  | _ => .error .truncated

/-! The encoder: R71's `w = op * 4096 + nnn`, `nnn = x * 256 + y * 16 + n`, `kk = y * 16 + n`, one definition for each
format of R72. -/

/-- Format NNN. -/
def encodeNNN (op : Nat) (nnn : Addr) : Word := BitVec.ofNat 16 (op * 4096 + nnn.toNat)
/-- Format XKK; also XFF, whose low byte is the function code. -/
def encodeXKK (op : Nat) (x : Reg) (kk : Byte) : Word := BitVec.ofNat 16 (op * 4096 + x.val * 256 + kk.toNat)
/-- Format XYN; also XYF, whose low nibble is the function code. -/
def encodeXYN (op : Nat) (x y : Reg) (n : Fin 16) : Word :=
  BitVec.ofNat 16 (op * 4096 + x.val * 256 + y.val * 16 + n.val)

/-- The word of an instruction (R74). -/
def encode : Instr → Word
  | .cls => 0x00E0
  | .ret => 0x00EE
  | .jp nnn => encodeNNN 0x1 nnn
  | .call nnn => encodeNNN 0x2 nnn
  | .seImm x kk => encodeXKK 0x3 x kk
  | .sneImm x kk => encodeXKK 0x4 x kk
  | .seReg x y => encodeXYN 0x5 x y 0x0
  | .sneReg x y => encodeXYN 0x9 x y 0x0
  | .ldImm x kk => encodeXKK 0x6 x kk
  | .addImm x kk => encodeXKK 0x7 x kk
  | .ldReg x y => encodeXYN 0x8 x y 0x0
  | .orReg x y => encodeXYN 0x8 x y 0x1
  | .andReg x y => encodeXYN 0x8 x y 0x2
  | .xorReg x y => encodeXYN 0x8 x y 0x3
  | .addReg x y => encodeXYN 0x8 x y 0x4
  | .sub x y => encodeXYN 0x8 x y 0x5
  | .shr x y => encodeXYN 0x8 x y 0x6
  | .subn x y => encodeXYN 0x8 x y 0x7
  | .shl x y => encodeXYN 0x8 x y 0xE
  | .ldI nnn => encodeNNN 0xA nnn
  | .jpV0 nnn => encodeNNN 0xB nnn
  | .rnd x kk => encodeXKK 0xC x kk
  | .drw x y n => encodeXYN 0xD x y n
  | .skp x => encodeXKK 0xE x 0x9E
  | .sknp x => encodeXKK 0xE x 0xA1
  | .ldVxDt x => encodeXKK 0xF x 0x07
  | .ldDtVx x => encodeXKK 0xF x 0x15
  | .ldStVx x => encodeXKK 0xF x 0x18
  | .addI x => encodeXKK 0xF x 0x1E
  | .ldF x => encodeXKK 0xF x 0x29
  | .ldB x => encodeXKK 0xF x 0x33
  | .storeRegs x => encodeXKK 0xF x 0x55
  | .loadRegs x => encodeXKK 0xF x 0x65
  | .ldVxK x => encodeXKK 0xF x 0x0A
  | .unimpl w => w

/-- The bytes of a word as RAM holds them: bits 15..8 at the lower address (R51). -/
def wordBytes (w : Word) : List Byte := [w.extractLsb 15 8, w.extractLsb 7 0]

/-- The 16-bit word that opcode_table.json means by `nbits` bits of value `w`: bits at and above `nbits` are 0. -/
def tableWord (nbits w : Nat) : Word := BitVec.ofNat 16 (w % 2 ^ nbits)

/-- What the decoder reads from that word, laid out in RAM's byte order. -/
def decodeTableWord (nbits w : Nat) : Option Instr :=
  match decode (wordBytes (tableWord nbits w)) with
  | .ok (i, _) => some i
  | .error _ => none

end Sys2Proof
end

