-- ==== Sys2Proof/Config.lean ====
section
/-! DEFINITION. What is fixed for one machine but not by the spec (spec 00_scope R5, R6), and the free input of
`Cxkk` (R132). The open parameters have no body: no proof can learn a value of them, so every theorem holds for
every choice the host may make. The machine reads them only through the one-line accessors of `Machine/Ops.lean` and
`Machine/Operands.lean`. -/

namespace Sys2Proof.Config

/-- R5 `RAM_SIZE`. -/
def ramSize : Nat := 4096
/-- R5 `PROG_BASE`: where the ROM is loaded, and the reset value of `pc`. -/
def progBase : Nat := 0x200
/-- R5 `MAX_ROM`: the largest ROM that fits, 4096 - 0x200. -/
def maxRom : Nat := 3584
/-- R5 `FONT_LEN`: the font table stands at 0x000 to 0x04F. -/
def fontLen : Nat := 80

/-- R6 `SHIFT_USES_VY`: `8xy6` and `8xyE` shift `v[y]` (true) or `v[x]` (false). OPEN (D19), log entry 1. -/
opaque shiftUsesVy : Bool

/-- R6 `STORE_READ_ADVANCES_I`: `Fx55` and `Fx65` add `x + 1` to `i` (true) or leave `i` (false). OPEN (D19), log
entry 1. -/
opaque storeReadAdvancesI : Bool

/-- R6, R38 `FONT`: the 80 bytes of 0x000 to 0x04F after reset. OPEN (D14), log entry 2. -/
opaque font : Vector Byte 80

/-- The free byte `rnd` (R91, R132, D17): the `k`-th byte that `Cxkk` draws is `rnd k`, under no law. A FREE VALUE, log
entry 3. -/
opaque rnd : Nat → Byte

/-- R38: the conventional font, the default of the parameter `FONT` (PRESUMED: the spec marks these bytes "from general
knowledge, not in source"). The machine never reads this list; it is here so that a claim about drawn glyphs can name it
as a premise on `font`. -/
def conventionalFont : List Byte :=
  [0xF0, 0x90, 0x90, 0x90, 0xF0,  0x20, 0x60, 0x20, 0x20, 0x70,
   0xF0, 0x10, 0xF0, 0x80, 0xF0,  0xF0, 0x10, 0xF0, 0x10, 0xF0] ++
  [0x90, 0x90, 0xF0, 0x10, 0x10,  0xF0, 0x80, 0xF0, 0x10, 0xF0,
   0xF0, 0x80, 0xF0, 0x90, 0xF0,  0xF0, 0x10, 0x20, 0x40, 0x40] ++
  [0xF0, 0x90, 0xF0, 0x90, 0xF0,  0xF0, 0x90, 0xF0, 0x10, 0xF0,
   0xF0, 0x90, 0xF0, 0x90, 0x90,  0xE0, 0x90, 0xE0, 0x90, 0xE0] ++
  [0xF0, 0x80, 0x80, 0x80, 0xF0,  0xE0, 0x90, 0x90, 0x90, 0xE0,
   0xF0, 0x80, 0xF0, 0x80, 0xF0,  0xF0, 0x80, 0xF0, 0x80, 0x80]

end Sys2Proof.Config
end

