-- ==== Sys2Proof/Machine/State.lean ====
section
/-! DEFINITION. The state of the machine (spec 10_state), the reasons a step can stop, and the state after reset
(R37, R190). Plain data only. -/

namespace Sys2Proof.Machine

/-- R33: the dispatcher state. Written by every cycle that executes an instruction, read by none. -/
inductive Mode where
  | running
  | waitingForKey
  deriving DecidableEq, Repr

/-- R31, R170: the fault register. Its codes are `HaltCause.code`. -/
inductive HaltCause where
  /-- No fault. -/
  | none
  /-- R172: a cycle began with `pc >= 4095`. -/
  | fetchRange
  /-- R173: `00EE` with `sp = 0`. -/
  | stackUnderflow
  /-- R174: `2nnn` with `sp = 16`. -/
  | stackOverflow
  /-- R175: `Reset(ROM)` with more than 3584 bytes. -/
  | loadTooLarge
  deriving DecidableEq, Repr

/-- R176: the payload of an `Unimplemented` event, the address `A` the word was fetched from and the word. -/
structure Diagnostic where
  addr : Word
  word : Word
  deriving DecidableEq, Repr

/-- R90: the four events by which the host drives the block. The byte `rnd` of `Cycle(rnd)` is not written in the event:
it is drawn from `Config.rnd` (log entry 3). `k` of KeySet is 0 to 15 by its type (R95: no other is a legal event). -/
inductive HostEvent where
  | reset (rom : List Byte)
  | cycle
  | tick
  | keySet (k : Fin 16) (pressed : Bool)
  deriving DecidableEq, Repr

/-- RAM (R50) as a list of (address, byte) in canonical form (`Memory.wf` in `Machine/Ops.lean`). -/
abbrev Memory := List Host.Cell

/-- R34: `disp[y][x]`, 32 rows of 64 cells; `true` is 1 (on). -/
abbrev Display := Vector (Vector Bool 64) 32

/-- Everything the spec gives the machine, then the model's own two fields. -/
structure State where
  /-- R20: `v[0]` to `v[15]`; `v[15]` is VF (R21). -/
  v : Vector Byte 16
  /-- R25: the index register. -/
  i : Word
  /-- R22: the program counter. -/
  pc : Word
  /-- R26: the number of stack entries in use, 0 to 16. -/
  sp : Fin 17
  /-- R27: the return stack. -/
  stack : Vector Word 16
  /-- R28: the delay timer. -/
  dt : Byte
  /-- R29: the sound timer. -/
  st : Byte
  /-- R50: the 4096 bytes of RAM. -/
  mem : Memory
  /-- R34: the display grid. -/
  disp : Display
  /-- R35: the keypad flags, true = pressed. -/
  key : Vector Bool 16
  /-- R33: the dispatcher state. -/
  mode : Mode
  /-- R31: the fault register. -/
  halt : HaltCause
  /-- R176, R96(c): the `Unimplemented` events so far, oldest first. -/
  events : List Diagnostic
  /-- The model's own: how many bytes `Cxkk` has drawn from `Config.rnd` (R132, log entry 3). -/
  rndCount : Nat
  /-- The model's own: the events the host issues next, the next one first; when it is empty the host issues Cycle
  (R90, log entry 4). -/
  hostQueue : List HostEvent
  deriving DecidableEq, Repr

/-- The machine has no fault that ends a run in this sense, so there is no constructor and none is ever raised: each of
the spec's four fatal faults is a state the machine goes on from, with `halt` set (R171: Tick, KeySet and Reset still
act), and is modelled as that next state. -/
inductive Fault where
  deriving DecidableEq, Repr

/-- Reasons a step has no meaning. -/
inductive Refusal where
  /-- Raised by an arm of `exec` whose instruction has no meaning yet. Safe: the run stops. No arm raises it. -/
  | notModelled (mnemonic : String)
  deriving DecidableEq, Repr

/-- What executing an instruction, or a step, answers. -/
abbrev Result := Host.Outcome State Fault Refusal

/-- R37, R190: the state after `Reset(ROM)` with an empty ROM. RAM lists nothing: it reads as the font below 0x050 and
as zero above. Values other than `pc` and RAM are the spec's decision D12. -/
def State.reset : State where
  v := Vector.replicate 16 0
  i := 0
  pc := 0x200
  sp := 0
  stack := Vector.replicate 16 0
  dt := 0
  st := 0
  mem := []
  disp := Vector.replicate 32 (Vector.replicate 64 false)
  key := Vector.replicate 16 false
  mode := .running
  halt := .none
  events := []
  rndCount := 0
  hostQueue := []

end Sys2Proof.Machine
end

