-- ==== Sys2Proof/Machine/Ops.lean ====
section
/-! DEFINITION. The named operations over RAM, registers, stack, display and keypad; the ways an instruction ends
(R91 to R93); raising a fatal fault (R171); emitting a diagnostic event (R176); fetch (R51, R52). -/

namespace Sys2Proof.Machine

/-! ## RAM (20_memory) -/

/-- The parameter `FONT` (R38) as the machine reads it. -/
def fontByte (k : Fin 80) : Byte := Config.font[k]

/-- What RAM holds at `a` when nothing is listed there: the reset contents with an empty ROM (R37, R59), the font at
0x000 to 0x04F and zero elsewhere. -/
def Memory.unlisted (a : Nat) : Byte := if h : a < 80 then fontByte ⟨a, h⟩ else 0

/-- `ram[a]` (R53). -/
def Memory.read : Memory → Nat → Byte
  | [], a => Memory.unlisted a
  | (k, b) :: m, a => if a = k then b else Memory.read m a

/-- A cell in front of `m`, unless it holds what an unlisted address reads as. -/
def Memory.consCell (a : Nat) (b : Byte) (m : Memory) : Memory :=
  if b = Memory.unlisted a then m else (a, b) :: m

/-- `ram[a] <- b` (R54), keeping the canonical form. -/
def Memory.write : Memory → Nat → Byte → Memory
  | [], a, b => Memory.consCell a b []
  | (k, c) :: m, a, b =>
    if a < k then Memory.consCell a b ((k, c) :: m)
    else if a = k then Memory.consCell a b m
    else (k, c) :: Memory.write m a b

/-- The cells of the bytes `bs` at `a`, `a + 1`, ... over otherwise unwritten RAM (R191: verbatim, in order). -/
def Memory.image (a : Nat) : List Byte → Memory
  | [] => []
  | b :: bs => Memory.consCell a b (Memory.image (a + 1) bs)

/-- Addresses strictly rising, each at least `lo`; every address in RAM; no cell equal to what an unlisted address reads
as. -/
def Memory.wfFrom (lo : Nat) : Memory → Bool
  | [] => true
  | (k, b) :: m =>
    decide (lo ≤ k) && decide (k < Config.ramSize) && decide (b ≠ Memory.unlisted k) && Memory.wfFrom (k + 1) m

/-- The canonical form of RAM. -/
def Memory.wf (m : Memory) : Bool := Memory.wfFrom 0 m

/-- R55: the data effective address `ea(k) = (i + k) mod 4096`. -/
def ea (i : Word) (k : Nat) : Addr := BitVec.ofNat 12 (i.toNat + k)

/-- `MemWrite(ea(k), 1, b)` for `k`, `k + 1`, ... and the bytes of a list, in order (R54, R55). -/
def Memory.storeFrom (m : Memory) (i : Word) (k : Nat) : List Byte → Memory
  | [] => m
  | b :: bs => Memory.storeFrom (m.write (ea i k).toNat b) i (k + 1) bs

/-- `ram[a]`. -/
def State.ram (s : State) (a : Nat) : Byte := s.mem.read a

/-- `MemRead(ea(k), 1)` with the current `i`. -/
def State.dataByte (s : State) (k : Nat) : Byte := s.ram (ea s.i k).toNat

def State.setMem (s : State) (m : Memory) : State := { s with mem := m }

/-! ## Registers (10_state) -/

/-- VF is register 15 (R21). -/
def vf : Reg := 15

/-- `v[x]`. -/
def State.reg (s : State) (x : Reg) : Byte := s.v[x]

/-- `v[x] <- b`. -/
def State.setReg (s : State) (x : Reg) (b : Byte) : State := { s with v := s.v.set x b }

/-- The whole register file at once, `v[k] <- f k`. -/
def State.setRegs (s : State) (f : Reg → Byte) : State := { s with v := Vector.ofFn f }

/-- R93(b): the flag write first and the result write second, so with `x = 15` the result remains (D3). -/
def State.setFlagged (s : State) (x : Reg) (flag result : Byte) : State := (s.setReg vf flag).setReg x result

def State.setI (s : State) (a : Word) : State := { s with i := a }

def State.setDt (s : State) (b : Byte) : State := { s with dt := b }

def State.setSt (s : State) (b : Byte) : State := { s with st := b }

/-- R31, R170: the codes of the fault register. -/
def HaltCause.code : HaltCause → Nat
  | .none => 0
  | .fetchRange => 1
  | .stackUnderflow => 2
  | .stackOverflow => 3
  | .loadTooLarge => 4

/-- R96(b): the sound output, audible exactly when `st` is not zero. -/
def State.audible (s : State) : Bool := s.st != 0

/-! ## Return stack (R26, R27) -/

/-- `stack[sp] <- a; sp <- sp + 1`, or nothing when the stack is full (R102, R174). -/
def State.push? (s : State) (a : Word) : Option State :=
  if h : s.sp.val < 16 then some { s with stack := s.stack.set s.sp.val a, sp := ⟨s.sp.val + 1, by omega⟩ } else none

/-- `stack[sp - 1]`, with `sp <- sp - 1`, or nothing when the stack is empty; the entry keeps its value (R100, R173). -/
def State.pop? (s : State) : Option (Word × State) :=
  if h : s.sp.val = 0 then none
  else some (s.stack[s.sp.val - 1], { s with sp := ⟨s.sp.val - 1, by omega⟩ })

/-! ## Display (44_display) -/

/-- `disp[py][px]`. -/
def Display.cell (d : Display) (px : Fin 64) (py : Fin 32) : Bool := d[py][px]

/-- R150 `put(cx, cy)`: toggle the cell at the wrapped coordinates; the flag says that it went from 1 to 0. -/
def Display.put (d : Display) (cx cy : Nat) : Display × Bool :=
  let px : Fin 64 := ⟨cx % 64, by omega⟩
  let py : Fin 32 := ⟨cy % 32, by omega⟩
  let old := d.cell px py
  (d.set py (d[py].set px (old ^^ true)), old)

/-- One pixel of R152's inner loop: bit `7 - col` of the row's byte `b`, at column `xs + col`, row `cy`. The accumulator
is the display and the sticky collision flag. -/
def Display.drawPixel (b : Byte) (xs cy : Nat) (acc : Display × Bool) (col : Nat) : Display × Bool :=
  if b.getLsbD (7 - col) then
    let p := acc.1.put (xs + col) cy
    (p.1, acc.2 || p.2)
  else acc

/-- One sprite row: its eight bits, most significant first. -/
def Display.drawRow (rows : Nat → Byte) (xs ys : Nat) (acc : Display × Bool) (row : Nat) : Display × Bool :=
  (List.range 8).foldl (Display.drawPixel (rows row) xs (ys + row)) acc

/-- R152: `n` rows drawn at `(xs, ys)`, from a cleared collision flag. -/
def Display.drawSprite (d : Display) (rows : Nat → Byte) (xs ys n : Nat) : Display × Bool :=
  (List.range n).foldl (Display.drawRow rows xs ys) (d, false)

/-- All 2048 cells 0 (R151). -/
def Display.cleared : Display := Vector.replicate 32 (Vector.replicate 64 false)

def State.setDisp (s : State) (d : Display) : State := { s with disp := d }

/-- R96(a): the host's view `(x, y) -> disp[y][x]`. -/
def State.pixel (s : State) (px : Fin 64) (py : Fin 32) : Bool := s.disp.cell px py

/-! ## Keypad (R35) -/

/-- `key[k]`. -/
def State.keyDown (s : State) (k : Fin 16) : Bool := s.key[k]

def State.setKey (s : State) (k : Fin 16) (pressed : Bool) : State := { s with key := s.key.set k pressed }

/-- R162: the least `j` with `key[j]` true. -/
def State.lowestKey (s : State) : Option (Fin 16) := (List.finRange 16).find? s.keyDown

/-! ## The free input byte (R132) -/

/-- `rnd`, the free byte of this cycle. -/
def State.freshByte (s : State) : Byte := Config.rnd s.rndCount

/-- The next draw sees another free byte. -/
def State.drawn (s : State) : State := { s with rndCount := s.rndCount + 1 }

/-! ## How an instruction ends (R91, R92) -/

/-- `pc <- target`, with `mode <- Running` as after every executed instruction but a waiting `Fx0A` (R33). -/
def State.goto (s : State) (target : Word) : State := { s with pc := target, mode := .running }

/-- R92: the default advance `pc <- A + 2`. -/
def State.advance (s : State) : State := s.goto (s.pc + 2)

/-- R107: a skip, `pc <- A + 4` if the condition holds, else `A + 2`. -/
def State.skipIf (s : State) (c : Bool) : State := s.goto (if c then s.pc + 4 else s.pc + 2)

/-- R162: the stall of `Fx0A`, `pc` unchanged and `mode <- WaitingForKey`. -/
def State.stall (s : State) : State := { s with mode := .waitingForKey }

/-! ## Faults and events (60_exceptions) -/

/-- R171 `raise Halt(cause)`: taking a fatal fault. `halt <- cause` and nothing else: no state is saved, control goes
nowhere, `pc` still identifies the instruction. There is no return from it but the host's Reset. -/
def State.raiseHalt (s : State) (cause : HaltCause) : State := { s with halt := cause }

/-- R176 `emit Unimplemented(A, w)`, an output: appended to the events so far. -/
def State.emit (s : State) (w : Word) : State := { s with events := s.events ++ [⟨s.pc, w⟩] }

/-! ## Fetch -/

/-- R51, R52: the big-endian word at `pc`, or nothing when `pc >= 4095`. -/
def State.fetch? (s : State) : Option Word :=
  if s.pc.toNat < 4095 then some (word (s.ram s.pc.toNat) (s.ram (s.pc.toNat + 1))) else none

/-- The rest of the host's events. -/
def State.setQueue (s : State) (q : List HostEvent) : State := { s with hostQueue := q }

end Sys2Proof.Machine
end

