-- ==== Sys2Proof/Machine/Operands.lean ====
section
/-! DEFINITION. The values instructions compute from their operands (spec R73, R93 and the family files), each a function
of latched values. -/

namespace Sys2Proof.Machine

/-- R73: `nnn` zero-extended to 16 bits. -/
def nnnValue (nnn : Addr) : Word := nnn.setWidth 16

/-- R108: `nnn + a`, held in 16 bits, not reduced mod 4096. -/
def indexedTarget (nnn : Addr) (a : Byte) : Word := nnnValue nnn + a.setWidth 16

/-- R141: `(i + a) mod 65536`. -/
def indexPlus (i : Word) (a : Byte) : Word := i + a.setWidth 16

/-- R142: `5 * a`, the whole byte. -/
def glyphAddress (a : Byte) : Word := 5 * a.setWidth 16

/-- R166: `a mod 16`. -/
def keyIndex (a : Byte) : Fin 16 := ⟨a.toNat % 16, by omega⟩

/-- The quirk input `SHIFT_USES_VY` (R6, R30) as the machine reads it. -/
def shiftUsesVy : Bool := Config.shiftUsesVy

/-- The quirk input `STORE_READ_ADVANCES_I` (R6, R30) as the machine reads it. -/
def storeReadAdvancesI : Bool := Config.storeReadAdvancesI

/-- R129, R131: `src := b if SHIFT_USES_VY else a`, for either value of the quirk. -/
def shiftSource (usesVy : Bool) (a b : Byte) : Byte := if usesVy then b else a

/-- R144, R145: `i`, or `(i + x + 1) mod 65536` when the quirk says so. -/
def blockIndex (advances : Bool) (i : Word) (x : Reg) : Word :=
  if advances then i + BitVec.ofNat 16 (x.val + 1) else i

/-- R9 `bcd(b)`: hundreds, tens, ones, each a whole byte (R143). -/
def bcdDigits (a : Byte) : List Byte := [a / 100, a / 10 % 10, a % 10]

/-- R144: the latched registers `v[0]` to `v[x]`, `v[0]` first. -/
def State.regsUpTo (s : State) (x : Reg) : List Byte := s.v.toList.take (x.val + 1)

/-- R145: register `k` after the load, `MemRead(ea(k), 1)` for `k <= x` and unchanged above. -/
def State.loadedReg (s : State) (x k : Reg) : Byte := if k ≤ x then s.dataByte k.val else s.reg k

end Sys2Proof.Machine
end

