-- ==== Sys2Proof/Machine/Flags.lean ====
section
/-! DEFINITION. The values VF receives as a flag (spec R21). The collision flag of `Dxyn` is computed by
`Display.drawSprite`. -/

namespace Sys2Proof.Machine

/-- A flag as the byte VF receives, 1 or 0. -/
def flagByte (c : Bool) : Byte := if c then 1 else 0

/-- R127: 1 if `a + b > 255`. -/
def carryFlag (a b : Byte) : Byte := flagByte (decide (a.toNat + b.toNat > 255))

/-- R128, R130: 1 if `a > b`, strictly. -/
def greaterFlag (a b : Byte) : Byte := flagByte (decide (a.toNat > b.toNat))

/-- R129: bit 0 of the shift source. -/
def shiftRightFlag (src : Byte) : Byte := src &&& 1

/-- R131: bit 7 of the shift source. -/
def shiftLeftFlag (src : Byte) : Byte := (src >>> 7) &&& 1

end Sys2Proof.Machine
end

