-- ==== Sys2Proof/Machine/Alu.lean ====
section
/-! DEFINITION. Register file and ALU (spec 42_alu). Operands are read from `s` before any write (R93a). -/

namespace Sys2Proof.Machine

/-- R121 `6xkk` LD Vx, kk. -/
def execLdImm (x : Reg) (kk : Byte) (s : State) : Result := .next (s.setReg x kk).advance

/-- R122 `7xkk` ADD Vx, kk. VF is not written (90_conflicts C8). -/
def execAddImm (x : Reg) (kk : Byte) (s : State) : Result := .next (s.setReg x (s.reg x + kk)).advance

/-- R123 `8xy0` LD Vx, Vy. -/
def execLdReg (x y : Reg) (s : State) : Result := .next (s.setReg x (s.reg y)).advance

/-- R124 `8xy1` OR Vx, Vy. -/
def execOrReg (x y : Reg) (s : State) : Result := .next (s.setReg x (s.reg x ||| s.reg y)).advance

/-- R125 `8xy2` AND Vx, Vy. -/
def execAndReg (x y : Reg) (s : State) : Result := .next (s.setReg x (s.reg x &&& s.reg y)).advance

/-- R126 `8xy3` XOR Vx, Vy. -/
def execXorReg (x y : Reg) (s : State) : Result := .next (s.setReg x (s.reg x ^^^ s.reg y)).advance

/-- R127 `8xy4` ADD Vx, Vy. -/
def execAddReg (x y : Reg) (s : State) : Result :=
  .next (s.setFlagged x (carryFlag (s.reg x) (s.reg y)) (s.reg x + s.reg y)).advance

/-- R128 `8xy5` SUB Vx, Vy. -/
def execSub (x y : Reg) (s : State) : Result :=
  .next (s.setFlagged x (greaterFlag (s.reg x) (s.reg y)) (s.reg x - s.reg y)).advance

/-- R129's effect for a given shift source. -/
def shiftRight (x : Reg) (src : Byte) (s : State) : Result :=
  .next (s.setFlagged x (shiftRightFlag src) (src >>> 1)).advance

/-- R129 `8xy6` SHR Vx, Vy. -/
def execShr (x y : Reg) (s : State) : Result :=
  shiftRight x (shiftSource shiftUsesVy (s.reg x) (s.reg y)) s

/-- R130 `8xy7` SUBN Vx, Vy. -/
def execSubn (x y : Reg) (s : State) : Result :=
  .next (s.setFlagged x (greaterFlag (s.reg y) (s.reg x)) (s.reg y - s.reg x)).advance

/-- R131's effect for a given shift source. -/
def shiftLeft (x : Reg) (src : Byte) (s : State) : Result :=
  .next (s.setFlagged x (shiftLeftFlag src) (src <<< 1)).advance

/-- R131 `8xyE` SHL Vx, Vy. -/
def execShl (x y : Reg) (s : State) : Result :=
  shiftLeft x (shiftSource shiftUsesVy (s.reg x) (s.reg y)) s

/-- R132's effect for a given random byte. -/
def maskedRandom (x : Reg) (r kk : Byte) (s : State) : Result := .next (s.drawn.setReg x (r &&& kk)).advance

/-- R132 `Cxkk` RND Vx, kk. -/
def execRnd (x : Reg) (kk : Byte) (s : State) : Result := maskedRandom x s.freshByte kk s

end Sys2Proof.Machine
end

