-- ==== Sys2Proof/Machine/Draw.lean ====
section
/-! DEFINITION. The two display instructions (spec 44_display). -/

namespace Sys2Proof.Machine

/-- R151 `00E0` CLS. VF is not written (D15, 90_conflicts C10). -/
def execCls (s : State) : Result := .next (s.setDisp .cleared).advance

/-- R152: what `Dxyn` makes of the display, with the collision: the `n` bytes at `ea(0)`, ... drawn with the top-left
pixel at column `v[x]`, row `v[y]`, all latched before VF is written (D2, 90_conflicts C11). -/
def State.sprite (s : State) (x y : Reg) (n : Fin 16) : Display × Bool :=
  s.disp.drawSprite s.dataByte (s.reg x).toNat (s.reg y).toNat n.val

/-- R152 `Dxyn` DRW Vx, Vy, n. -/
def execDrw (x y : Reg) (n : Fin 16) (s : State) : Result :=
  .next ((s.setReg vf (flagByte (s.sprite x y n).2)).setDisp (s.sprite x y n).1).advance

end Sys2Proof.Machine
end

