-- ==== Sys2Proof/Machine/IndexMemory.lean ====
section
/-! DEFINITION. Index register, loads and stores (spec 43_index_memory). -/

namespace Sys2Proof.Machine

/-- R140 `Annn` LD I, nnn. -/
def execLdI (nnn : Addr) (s : State) : Result := .next (s.setI (nnnValue nnn)).advance

/-- R141 `Fx1E` ADD I, Vx. VF is not written. -/
def execAddI (x : Reg) (s : State) : Result := .next (s.setI (indexPlus s.i (s.reg x))).advance

/-- R142 `Fx29` LD F, Vx. -/
def execLdF (x : Reg) (s : State) : Result := .next (s.setI (glyphAddress (s.reg x))).advance

/-- R143 `Fx33` LD B, Vx. `i` is unchanged. -/
def execLdB (x : Reg) (s : State) : Result :=
  .next (s.setMem (s.mem.storeFrom s.i 0 (bcdDigits (s.reg x)))).advance

/-- R144's effect for a given value of the quirk. -/
def storeBlock (advances : Bool) (x : Reg) (s : State) : Result :=
  .next ((s.setMem (s.mem.storeFrom s.i 0 (s.regsUpTo x))).setI (blockIndex advances s.i x)).advance

/-- R144 `Fx55` LD [I], Vx. -/
def execStoreRegs (x : Reg) (s : State) : Result := storeBlock storeReadAdvancesI x s

/-- R145's effect for a given value of the quirk. -/
def loadBlock (advances : Bool) (x : Reg) (s : State) : Result :=
  .next ((s.setRegs (s.loadedReg x)).setI (blockIndex advances s.i x)).advance

/-- R145 `Fx65` LD Vx, [I]. -/
def execLoadRegs (x : Reg) (s : State) : Result := loadBlock storeReadAdvancesI x s

end Sys2Proof.Machine
end

