-- ==== Sys2Proof/Machine/KeypadTimers.lean ====
section
/-! DEFINITION. Keypad and timer instructions (spec 45_keypad_timers). -/

namespace Sys2Proof.Machine

/-- R160 `Ex9E` SKP Vx. -/
def execSkp (x : Reg) (s : State) : Result := .next (s.skipIf (s.keyDown (keyIndex (s.reg x))))

/-- R161 `ExA1` SKNP Vx. -/
def execSknp (x : Reg) (s : State) : Result := .next (s.skipIf (!s.keyDown (keyIndex (s.reg x))))

/-- R162 `Fx0A` LD Vx, K: the lowest key that is down, or a stall that repeats the instruction. -/
def execLdVxK (x : Reg) (s : State) : Result :=
  match s.lowestKey with
  | some k => .next (s.setReg x (BitVec.ofNat 8 k.val)).advance
  | none => .next s.stall

/-- R163 `Fx07` LD Vx, DT. -/
def execLdVxDt (x : Reg) (s : State) : Result := .next (s.setReg x s.dt).advance

/-- R164 `Fx15` LD DT, Vx. -/
def execLdDtVx (x : Reg) (s : State) : Result := .next (s.setDt (s.reg x)).advance

/-- R165 `Fx18` LD ST, Vx. -/
def execLdStVx (x : Reg) (s : State) : Result := .next (s.setSt (s.reg x)).advance

end Sys2Proof.Machine
end

