-- ==== Sys2Proof/Machine/Sequencer.lean ====
section
/-! DEFINITION. Control transfer (spec 41_sequencer_stack) and the words that are not instructions (R97). -/

namespace Sys2Proof.Machine

/-- R100 `00EE` RET. No `+ 2` after the pop. -/
def execRet (s : State) : Result :=
  match s.pop? with
  | some (a, t) => .next (t.goto a)
  | none => .next (s.raiseHalt .stackUnderflow)

/-- R101 `1nnn` JP nnn. -/
def execJp (nnn : Addr) (s : State) : Result := .next (s.goto (nnnValue nnn))

/-- R102 `2nnn` CALL nnn. The value pushed is `A + 2` (D4, 90_conflicts C1). -/
def execCall (nnn : Addr) (s : State) : Result :=
  match s.push? (s.pc + 2) with
  | some t => .next (t.goto (nnnValue nnn))
  | none => .next (s.raiseHalt .stackOverflow)

/-- R103 `3xkk` SE Vx, kk. -/
def execSeImm (x : Reg) (kk : Byte) (s : State) : Result := .next (s.skipIf (s.reg x == kk))

/-- R104 `4xkk` SNE Vx, kk. -/
def execSneImm (x : Reg) (kk : Byte) (s : State) : Result := .next (s.skipIf (s.reg x != kk))

/-- R105 `5xy0` SE Vx, Vy. -/
def execSeReg (x y : Reg) (s : State) : Result := .next (s.skipIf (s.reg x == s.reg y))

/-- R106 `9xy0` SNE Vx, Vy. -/
def execSneReg (x y : Reg) (s : State) : Result := .next (s.skipIf (s.reg x != s.reg y))

/-- R108 `Bnnn` JP V0, nnn. The register is always `v[0]`; the sum is not masked (D6). -/
def execJpV0 (nnn : Addr) (s : State) : Result := .next (s.goto (indexedTarget nnn (s.reg 0)))

/-- R97 `UNIMPL`: a diagnostic event and the default advance. -/
def execUnimpl (w : Word) (s : State) : Result := .next (s.emit w).advance

end Sys2Proof.Machine
end

