-- ==== Sys2Proof/Machine/Cycle.lean ====
section
/-! DEFINITION. The dispatch cycle and the host's other events (spec 40_cycle, 70_reset_and_hazards). -/

namespace Sys2Proof.Machine

/-- R91 `Cycle(rnd)`: nothing when halted; a fatal fault when the word cannot be fetched (R172); else the decoded
instruction. The order of checks is R178's. -/
def cycle (s : State) : Result :=
  if s.halt = .none then
    match s.fetch? with
    | some w => exec (decodeWord w) s
    | none => .next (s.raiseHalt .fetchRange)
  else .next s

/-- One down-count toward zero, never below (R94). -/
def countDown (b : Byte) : Byte := if b = 0 then 0 else b - 1

/-- R94 `Tick`. -/
def tick (s : State) : State := (s.setDt (countDown s.dt)).setSt (countDown s.st)

/-- R95 `KeySet(k, pressed)`. -/
def keySet (k : Fin 16) (pressed : Bool) (s : State) : State := s.setKey k pressed

/-- R190, R192 `Reset(ROM)`: every register at its reset value, RAM the font, the ROM from 0x200 and zeros; a ROM that
does not fit is not copied and sets `halt`. What is outside the block stays: the events already emitted, the host's
further events and the place in the random source. -/
def resetWith (rom : List Byte) (s : State) : State :=
  { State.reset with
    mem := if rom.length ≤ Config.maxRom then Memory.image Config.progBase rom else []
    halt := if rom.length ≤ Config.maxRom then .none else .loadTooLarge
    events := s.events
    rndCount := s.rndCount
    hostQueue := s.hostQueue }

/-- R90: the block's reaction to one event. -/
def hostEvent (e : HostEvent) (s : State) : Result :=
  match e with
  | .reset rom => .next (resetWith rom s)
  | .cycle => cycle s
  | .tick => .next (tick s)
  | .keySet k pressed => .next (keySet k pressed s)

/-- Take the host's next event; with none waiting the host issues Cycle (log entry 4). -/
def nextEvent (s : State) : HostEvent × State :=
  match s.hostQueue with
  | [] => (.cycle, s)
  | e :: rest => (e, s.setQueue rest)

/-- Where an instruction is placed so that the next fetch reads it: `pc`, or 0x200 when no word can be fetched at `pc`. -/
def placeAddr (s : State) : Word := if s.pc.toNat < 4095 then s.pc else 0x200

/-- RAM with the word `w` at address `a`, big-endian (R51). -/
def placeWord (m : Memory) (a : Word) (w : Word) : Memory :=
  (m.write a.toNat (w.extractLsb 15 8)).write (a.toNat + 1) (w.extractLsb 7 0)

end Sys2Proof.Machine
end

