-- ==== Sys2Proof/Machine/Step.lean ====
section
/-! DEFINITION. One step: one event of the host (spec R90). -/

namespace Sys2Proof.Machine

/-- The block takes the host's next event and reacts to it; the event is Cycle when none is waiting. -/
def step (s : State) : Host.Outcome State Fault Refusal :=
  hostEvent (nextEvent s).1 (nextEvent s).2

/-- `s` with the instruction of `nbits` bits of value `w` where the next step fetches: no event waits before the cycle,
the machine is not halted, and `pc` is kept where a word can be fetched there. -/
def State.withFetchWord (s : State) (nbits w : Nat) : State :=
  { s with
    mem := placeWord s.mem (placeAddr s) (tableWord nbits w)
    pc := placeAddr s
    halt := .none
    hostQueue := [] }

end Sys2Proof.Machine
end

