-- ==== Sys2Proof/Safety.lean ====
section
/-! DEFINITION. The terms in which statements speak of the machine: its parts and frames over them, the invariant of
every reachable state (spec 10_state R40 and the rules named below), what a sprite covers, and states that differ only
where no rule looks. -/

namespace Sys2Proof.Machine

/-- One piece of state: a register, one byte of RAM, one display cell, one key, ... -/
inductive Part where
  | reg (x : Reg)
  | i
  | pc
  | sp
  | stackEntry (k : Fin 16)
  | dt
  | st
  | ram (a : Nat)
  | pixel (px : Fin 64) (py : Fin 32)
  | key (k : Fin 16)
  | mode
  | halt
  | events
  | rndCount
  | hostQueue
  deriving DecidableEq, Repr

/-- The part reads the same in `t` as in `s`. -/
def Part.Same (s t : State) : Part → Prop
  | .reg x => t.reg x = s.reg x
  | .i => t.i = s.i
  | .pc => t.pc = s.pc
  | .sp => t.sp = s.sp
  | .stackEntry k => t.stack[k] = s.stack[k]
  | .dt => t.dt = s.dt
  | .st => t.st = s.st
  | .ram a => t.ram a = s.ram a
  | .pixel px py => t.pixel px py = s.pixel px py
  | .key k => t.keyDown k = s.keyDown k
  | .mode => t.mode = s.mode
  | .halt => t.halt = s.halt
  | .events => t.events = s.events
  | .rndCount => t.rndCount = s.rndCount
  | .hostQueue => t.hostQueue = s.hostQueue

/-- The frame: from `s` to `t` only the parts that `may` names can change. -/
def OnlyChanges (s t : State) (may : Part → Prop) : Prop := ∀ p, ¬ may p → p.Same s t

/-- What each value of the fault register says of the state it froze (R171: "`pc` identifies it"; R172 to R175). -/
def State.HaltExplained (s : State) : Prop :=
  match s.halt with
  | .none => True
  | .fetchRange => 4095 ≤ s.pc.toNat
  | .stackUnderflow => s.sp.val = 0 ∧ s.fetch? = some 0x00EE
  | .stackOverflow => s.sp.val = 16 ∧ ∃ w nnn, s.fetch? = some w ∧ decodeWord w = .call nnn
  | .loadTooLarge => s.pc = 0x200 ∧ ∀ a, s.ram a = Memory.unlisted a

/-- What holds in every state a run can reach. -/
structure State.Inv (s : State) : Prop where
  /-- RAM is in its canonical form. -/
  ram : s.mem.wf = true
  /-- R40: `pc <= 0x10FE`. -/
  pc : s.pc.toNat ≤ 0x10FE
  /-- R40: every stack entry in use is in 0x002 to 0x1000. -/
  returns : ∀ k : Fin 16, k.val < s.sp.val → 2 ≤ s.stack[k].toNat ∧ s.stack[k].toNat ≤ 0x1000
  /-- R33: in `WaitingForKey`, `pc` still addresses the `Fx0A`. -/
  waiting : s.mode = .waitingForKey → ∃ w x, s.fetch? = some w ∧ decodeWord w = .ldVxK x
  /-- R171: a fault is precise. -/
  cause : s.HaltExplained
  /-- R176: every event names an address a word can be fetched from, and a word that is not an instruction. -/
  events : ∀ e ∈ s.events, e.addr.toNat ≤ 4094 ∧ isUnimplWord e.word = true

/-- The cell `(px, py)` is under a 1 bit of the sprite whose `row`-th byte is `rows row`, drawn with `n` rows at
`(xs, ys)` (R152, each pixel wrapping on its own). -/
def SpriteCovers (rows : Nat → Byte) (xs ys n : Nat) (px : Fin 64) (py : Fin 32) : Prop :=
  ∃ row col, row < n ∧ col < 8 ∧ (rows row).getLsbD (7 - col) = true ∧
    (xs + col) % 64 = px.val ∧ (ys + row) % 32 = py.val

/-- `u` differs from `s` at most in stack entries at or above `sp` (R27: "never read by any rule"). -/
def SameButStaleStack (s u : State) : Prop :=
  u = { s with stack := u.stack } ∧ ∀ k : Fin 16, k.val < s.sp.val → u.stack[k] = s.stack[k]

end Sys2Proof.Machine
end

