-- ==== Sys2Proof/Certificates/Slice0/Obligations.lean ====
section
/-! DEFINITION. The statements for the provers. `A` is the address of the instruction executed, `s.pc`. Frames are said
with `OnlyChanges`: every part not named reads as before, each byte of RAM and each display cell by itself. The host's
queue, and a Cycle when it is empty, are the model's own form of the host (log entry 4, DESIGN CHOICE). `A + 2` and `A + 4`
are taken mod 65536, which shows only where no step runs an instruction (log entry 10, DESIGN CHOICE). -/

open Sys2Proof Sys2Proof.Machine

/-! ## Encoding (30_encoding) -/

/-- R71, R74, R75: no bit of an encoding is dropped. -/
def Obligations.DecodeOfEncode : Prop :=
  ∀ i : Instr, i.wf = true → decodeWord (encode i) = i

/-- R75: "Decoding is total: every 16-bit word decodes to one of the 34 instructions or to `UNIMPL`"; and each word is
the encoding of what it decodes to. -/
def Obligations.EncodeOfDecode : Prop :=
  ∀ w : Word, (decodeWord w).wf = true ∧ encode (decodeWord w) = w

/-- R74: "No two rows match the same word". -/
def Obligations.OpcodeRowsDisjoint : Prop :=
  opcodeRows.Pairwise fun r q => ∀ w : Word, ¬ (r.accepts w = true ∧ q.accepts w = true)

/-- R75: the decoding procedure is equivalent to the table of R74. -/
def Obligations.DecodeFollowsOpcodeMap : Prop :=
  ∀ w : Word, ∀ r ∈ opcodeRows, ((decodeWord w).mnemonic = r.mnemonic ↔ r.accepts w = true)

/-- R76: the words that are not instructions, class by class. -/
def Obligations.UnimplementedSpace : Prop :=
  ∀ w : Word, decodeWord w = .unimpl w ↔
    (w.toNat < 0x1000 ∧ w.toNat ≠ 0x0E0 ∧ w.toNat ≠ 0x0EE) ∨
    (w.toNat / 4096 = 0x5 ∧ w.toNat % 16 ≠ 0) ∨
    (w.toNat / 4096 = 0x8 ∧ w.toNat % 16 ∈ [0x8, 0x9, 0xA, 0xB, 0xC, 0xD, 0xF]) ∨
    (w.toNat / 4096 = 0x9 ∧ w.toNat % 16 ≠ 0) ∨
    (w.toNat / 4096 = 0xE ∧ w.toNat % 256 ∉ [0x9E, 0xA1]) ∨
    (w.toNat / 4096 = 0xF ∧ w.toNat % 256 ∉ [0x07, 0x0A, 0x15, 0x18, 0x1E, 0x29, 0x33, 0x55, 0x65])

/-- Words written out from R72 and R74, and what they stand for. -/
def Obligations.SpecWordsDecode : Prop :=
  decodeWord 0b0000000011100000 = .cls ∧
  decodeWord 0b0010001000001000 = .call 0x208 ∧
  decodeWord 0b1000000100100110 = .shr 1 2 ∧
  decodeWord 0b1010001011110000 = .ldI 0x2F0 ∧
  decodeWord 0b1101000000010101 = .drw 0 1 5 ∧
  decodeWord 0b1111001101100101 = .loadRegs 3 ∧
  decodeWord 0b1111001100001010 = .ldVxK 3 ∧
  decodeWord 0b0101000100100001 = .unimpl 0x5121

/-- R51: the byte at the lower address supplies bits 15..8; R70: an instruction is exactly two bytes. That the decoder
answers `truncated` on fewer is the model's choice (log entry 15). -/
def Obligations.DecodeBigEndian : Prop :=
  (∀ b0 b1 rest, decode (b0 :: b1 :: rest) =
    .ok (decodeWord (BitVec.ofNat 16 (b0.toNat * 256 + b1.toNat)), rest)) ∧
  ∀ bs : List Byte, bs.length < 2 → decode bs = .error .truncated

/-! ## The cycle and the host's events (40_cycle, 60_exceptions, 70_reset_and_hazards) -/

/-- R91: with no fault pending and a word to fetch, a step executes the decoded instruction and adds nothing to it; an
explicit Cycle event is taken off the host's queue first. The queue, and a Cycle when it is empty, are the model's choice
(log entry 4). -/
def Obligations.StepRunsDecodedInstruction : Prop :=
  ∀ s : State, s.halt = .none → s.pc.toNat ≤ 4094 →
    (s.hostQueue = [] →
      step s = exec (decodeWord (BitVec.ofNat 16
        ((s.ram s.pc.toNat).toNat * 256 + (s.ram (s.pc.toNat + 1)).toNat))) s) ∧
    ∀ q, s.hostQueue = .cycle :: q →
      step s = exec (decodeWord (BitVec.ofNat 16
        ((s.ram s.pc.toNat).toNat * 256 + (s.ram (s.pc.toNat + 1)).toNat))) (s.setQueue q)

/-- R52: fetch is defined for `pc <= 4094`, odd or even; at `pc >= 4095` the cycle sets `halt` to `FETCH_RANGE` and
changes nothing else. Checking at fetch only, and the code, are the spec's own choice (D6, D7); the queue, and a
Cycle when it is empty, are the model's choice (log entry 4). -/
def Obligations.FetchRange : Prop :=
  ∀ s : State,
    (s.pc.toNat ≤ 4094 → s.fetch? = some (BitVec.ofNat 16
      ((s.ram s.pc.toNat).toNat * 256 + (s.ram (s.pc.toNat + 1)).toNat))) ∧
    (4095 ≤ s.pc.toNat → s.halt = .none →
      (s.hostQueue = [] → ∃ t, step s = .next t ∧
        t.halt = .fetchRange ∧ t.halt.code = 1 ∧ OnlyChanges s t (· = .halt)) ∧
      ∀ q, s.hostQueue = .cycle :: q → ∃ t, step s = .next t ∧
        t.halt = .fetchRange ∧ t.halt.code = 1 ∧ t.hostQueue = q ∧ OnlyChanges s t (· ∈ [.halt, .hostQueue]))

/-- R171, R31, R180: once `halt` is set a Cycle has no effect at all, Tick and KeySet act as ever and touch only the
timers and the keypad, no event but Reset changes `halt`, and a Reset with a ROM that fits clears it. The sticky register
is the spec's own choice (D7, D25); the queue, and a Cycle when it is empty, are the model's choice (log entry 4). -/
def Obligations.HaltedUntilReset : Prop :=
  ∀ s : State, s.halt ≠ .none →
    (s.hostQueue = [] → step s = .next s) ∧
    (∀ q, s.hostQueue = .cycle :: q → step s = .next (s.setQueue q)) ∧
    (∀ q, s.hostQueue = .tick :: q → ∃ t, step s = .next t ∧
      t.dt.toNat = s.dt.toNat - 1 ∧ t.st.toNat = s.st.toNat - 1 ∧ t.hostQueue = q ∧
      OnlyChanges s t (· ∈ [.dt, .st, .hostQueue])) ∧
    (∀ q k pressed, s.hostQueue = .keySet k pressed :: q → ∃ t, step s = .next t ∧
      t.keyDown k = pressed ∧ t.hostQueue = q ∧ OnlyChanges s t (· ∈ [.key k, .hostQueue])) ∧
    (∀ e q, s.hostQueue = e :: q → (∀ rom, e ≠ .reset rom) → ∃ t, step s = .next t ∧
      t.hostQueue = q ∧
      OnlyChanges s t (fun p => p ∈ [.dt, .st, .hostQueue] ∨ ∃ k, p = .key k)) ∧
    ∀ q rom, s.hostQueue = .reset rom :: q → rom.length ≤ 3584 → ∃ t, step s = .next t ∧ t.halt = .none

/-- R77, R90, R98: no instruction and no event leaves the machine without a next state. -/
def Obligations.EveryStepCompletes : Prop :=
  (∀ i s, ∃ t, exec i s = .next t) ∧ ∀ s, ∃ t, step s = .next t

/-- R94: Tick lowers each timer by one, never below 0, in any mode and also when halted (the last is the spec's own
choice, D25). The queue the event leaves is the model's choice (log entry 4). -/
def Obligations.TickCountsDown : Prop :=
  ∀ s q, s.hostQueue = .tick :: q → ∃ t, step s = .next t ∧
    t.dt.toNat = s.dt.toNat - 1 ∧ t.st.toNat = s.st.toNat - 1 ∧ t.hostQueue = q ∧
    OnlyChanges s t (· ∈ [.dt, .st, .hostQueue])

/-- R95: KeySet writes one keypad flag. The queue the event leaves is the model's choice (log entry 4). -/
def Obligations.KeySetWritesOneFlag : Prop :=
  ∀ s q k pressed, s.hostQueue = .keySet k pressed :: q → ∃ t, step s = .next t ∧
    t.keyDown k = pressed ∧ t.hostQueue = q ∧
    OnlyChanges s t (· ∈ [.key k, .hostQueue])

/-- R190, R191: Reset with a ROM that fits. The values other than `pc` and RAM are the spec's own choice (D12). That the
events and the place in the random source stay is the model's choice (log entry 5), and so is the queue, which keeps the
events after this one (log entries 4 and 5). -/
def Obligations.ResetLoadsRom : Prop :=
  ∀ s q rom, s.hostQueue = .reset rom :: q → rom.length ≤ 3584 → ∃ t, step s = .next t ∧
    (∀ k : Fin 80, t.ram k.val = fontByte k) ∧
    (∀ a, 0x050 ≤ a → a < 0x200 → t.ram a = 0) ∧
    (∀ k (h : k < rom.length), t.ram (0x200 + k) = rom[k]) ∧
    (∀ a, 0x200 + rom.length ≤ a → t.ram a = 0) ∧
    t.pc = 0x200 ∧ t.halt = .none ∧ t.mode = .running ∧
    (∀ x, t.reg x = 0) ∧ t.i = 0 ∧ t.sp = 0 ∧ (∀ k : Fin 16, t.stack[k] = 0) ∧
    t.dt = 0 ∧ t.st = 0 ∧ (∀ px py, t.pixel px py = false) ∧ (∀ k, t.keyDown k = false) ∧
    t.events = s.events ∧ t.rndCount = s.rndCount ∧ t.hostQueue = q

/-- R192, R175, R190: a ROM of more than 3584 bytes is refused: no byte of it is copied, `halt` is `LOAD_TOO_LARGE` (4),
the rest is as after any reset, and a Cycle then does nothing. Making the refusal a state is the spec's own choice (D24),
and so are the values other than `pc` and RAM (D12). That the events and the place in the random source stay, and the
queue, are the model's choice (log entries 4 and 5). -/
def Obligations.OversizeRomRefused : Prop :=
  ∀ s q rom, s.hostQueue = .reset rom :: q → 3584 < rom.length → ∃ t, step s = .next t ∧
    t.halt = .loadTooLarge ∧ t.halt.code = 4 ∧ t.pc = 0x200 ∧ t.mode = .running ∧
    (∀ k : Fin 80, t.ram k.val = fontByte k) ∧ (∀ a, 0x050 ≤ a → t.ram a = 0) ∧
    (∀ x, t.reg x = 0) ∧ t.i = 0 ∧ t.sp = 0 ∧ (∀ k : Fin 16, t.stack[k] = 0) ∧
    t.dt = 0 ∧ t.st = 0 ∧ (∀ px py, t.pixel px py = false) ∧ (∀ k, t.keyDown k = false) ∧
    t.events = s.events ∧ t.rndCount = s.rndCount ∧ t.hostQueue = q ∧ cycle t = .next t

/-- R40 with R33, R171, R176: the invariant holds after reset. The reset values other than `pc` and RAM
are the spec's own choice (D12, log entry 6). -/
def Obligations.ResetHasInv : Prop := State.reset.Inv

/-- R40 with R33, R171, R176: every step keeps the invariant, whatever event the host sends. The queue the event comes
from and the list of `Unimplemented` events are the model's choice (log entries 4 and 9). -/
def Obligations.StepKeepsInv : Prop :=
  ∀ s t : State, s.Inv → step s = .next t → t.Inv

/-- R33: a cycle in `WaitingForKey` does exactly what a cycle in `Running` does. -/
def Obligations.ModeIsNeverRead : Prop :=
  ∀ s m, ∃ t u, cycle s = .next t ∧ cycle { s with mode := m } = .next u ∧
    u = { t with mode := u.mode } ∧ (t.halt = .none → u.mode = t.mode)

/-! ## Whole-machine rules (10_state, 20_memory) -/

/-- R25 to R29, R31, R34, R35, R50, R97, R176: which instructions can change each piece of state outside the `v`
registers, `pc` and `mode`. The events kept as a list, the place in the random source and the host's queue are the model's
choice (log entries 9, 3 and 4). -/
def Obligations.OnlyNamedInstructionsWrite : Prop :=
  ∀ i s t, exec i s = .next t →
    ((∀ x, i ≠ .ldB x) → (∀ x, i ≠ .storeRegs x) → ∀ a, t.ram a = s.ram a) ∧
    (i ≠ .cls → (∀ x y n, i ≠ .drw x y n) → ∀ px py, t.pixel px py = s.pixel px py) ∧
    ((∀ nnn, i ≠ .ldI nnn) → (∀ x, i ≠ .addI x) → (∀ x, i ≠ .ldF x) → (∀ x, i ≠ .storeRegs x) →
      (∀ x, i ≠ .loadRegs x) → t.i = s.i) ∧
    (i ≠ .ret → (∀ nnn, i ≠ .call nnn) → t.sp = s.sp ∧ t.halt = s.halt) ∧
    ((∀ nnn, i ≠ .call nnn) → t.stack = s.stack) ∧
    ((∀ x, i ≠ .ldDtVx x) → t.dt = s.dt) ∧
    ((∀ x, i ≠ .ldStVx x) → t.st = s.st) ∧
    ((∀ w, i ≠ .unimpl w) → t.events = s.events) ∧
    ((∀ x kk, i ≠ .rnd x kk) → t.rndCount = s.rndCount) ∧
    t.key = s.key ∧ t.hostQueue = s.hostQueue

/-- R21: VF is written as a flag by exactly six instructions; every other one leaves it unchanged unless it names
register 15 as a destination. -/
def Obligations.OnlySixWriteVfAsFlag : Prop :=
  ∀ i s t, exec i s = .next t →
    (∀ x y, i ≠ .addReg x y) → (∀ x y, i ≠ .sub x y) → (∀ x y, i ≠ .shr x y) → (∀ x y, i ≠ .subn x y) →
    (∀ x y, i ≠ .shl x y) → (∀ x y n, i ≠ .drw x y n) →
    (∀ kk, i ≠ .ldImm vf kk) → (∀ kk, i ≠ .addImm vf kk) → (∀ y, i ≠ .ldReg vf y) → (∀ y, i ≠ .orReg vf y) →
    (∀ y, i ≠ .andReg vf y) → (∀ y, i ≠ .xorReg vf y) → (∀ kk, i ≠ .rnd vf kk) → i ≠ .ldVxDt vf →
    i ≠ .ldVxK vf → i ≠ .loadRegs vf →
    t.reg vf = s.reg vf

/-- R29, R31, R181: a program cannot read `st`, `halt` or `mode`, nor what the host has seen or will send: two states
that differ only there are taken to states that differ only there. The events as a list and the queue are the model's
choice (log entries 9 and 4). -/
def Obligations.UnreadableState : Prop :=
  ∀ i (s : State) b h m es q, ∃ t u, exec i s = .next t ∧
    exec i { s with st := b, halt := h, mode := m, events := es, hostQueue := q } = .next u ∧
    OnlyChanges t u (· ∈ [.st, .halt, .mode, .events, .hostQueue])

/-- R27: entries at index `>= sp` are never read by any rule: states that agree but for them step to states that agree
but for them. -/
def Obligations.StaleStackNeverRead : Prop :=
  ∀ s u t, SameButStaleStack s u → step s = .next t → ∃ w, step u = .next w ∧ SameButStaleStack t w

/-- R64: a store by `Fx55` is seen by a later fetch with no intervening action. RAM in canonical form is part of the
invariant (`StepKeepsInv`). -/
def Obligations.StoredBytesAreFetched : Prop :=
  ∀ (s : State) (x : Reg) (k : Nat) (p : Word), s.mem.wf = true → k + 1 ≤ x.val → p.toNat ≤ 4094 →
    (ea s.i k).toNat = p.toNat → (ea s.i (k + 1)).toNat = p.toNat + 1 →
    ∃ t, exec (.storeRegs x) s = .next t ∧
      ({ t with pc := p } : State).fetch? = some (BitVec.ofNat 16
        ((s.reg (Fin.ofNat 16 k)).toNat * 256 + (s.reg (Fin.ofNat 16 (k + 1))).toNat))

/-- R55 (the wrap is the source's recommendation, D9): `ea(k) = (i + k) mod 4096`, so a data access is always inside
RAM. -/
def Obligations.EffectiveAddressWraps : Prop :=
  ∀ i k, (ea i k).toNat = (i.toNat + k) % 4096 ∧ (ea i k).toNat < 4096

/-! ## Sequencer and stack (41_sequencer_stack) -/

/-- R100: return with an entry on the stack. The entry popped keeps its value. -/
def Obligations.RetPops : Prop :=
  ∀ (s : State) (k : Fin 16), s.sp.val = k.val + 1 → ∃ t, exec .ret s = .next t ∧
    t.pc = s.stack[k] ∧ t.sp.val = k.val ∧ t.mode = .running ∧ OnlyChanges s t (· ∈ [.pc, .sp, .mode])

/-- R173: return with an empty stack is the fatal fault `STACK_UNDERFLOW`: `halt` is 2 and nothing else changes. The
spec takes the fault the source recommends for an undefined case (D8). -/
def Obligations.RetUnderflow : Prop :=
  ∀ s : State, s.sp.val = 0 → ∃ t, exec .ret s = .next t ∧
    t.halt = .stackUnderflow ∧ t.halt.code = 2 ∧ OnlyChanges s t (· = .halt)

/-- R101: jump; the target is used as it stands, odd or even. -/
def Obligations.JpJumps : Prop :=
  ∀ s nnn, ∃ t, exec (.jp nnn) s = .next t ∧
    t.pc.toNat = nnn.toNat ∧ t.mode = .running ∧ OnlyChanges s t (· ∈ [.pc, .mode])

/-- R102: call with room on the stack. That the value stored is `A + 2` is the spec's own reading (D4, C1). -/
def Obligations.CallPushes : Prop :=
  ∀ (s : State) (nnn : Addr) (k : Fin 16), s.sp.val = k.val → ∃ t, exec (.call nnn) s = .next t ∧
    t.stack[k] = s.pc + 2 ∧ t.sp.val = k.val + 1 ∧ t.pc.toNat = nnn.toNat ∧ t.mode = .running ∧
    OnlyChanges s t (· ∈ [.stackEntry k, .sp, .pc, .mode])

/-- R174: call with a full stack is the fatal fault `STACK_OVERFLOW`: `halt` is 3 and nothing else changes. The spec
takes the fault the source recommends for an undefined case (D8). -/
def Obligations.CallOverflow : Prop :=
  ∀ (s : State) (nnn : Addr), s.sp.val = 16 → ∃ t, exec (.call nnn) s = .next t ∧
    t.halt = .stackOverflow ∧ t.halt.code = 3 ∧ OnlyChanges s t (· = .halt)

/-- R100 with R102 (90_conflicts C1): a return right after a call comes back to the instruction after the call, and
leaves no trace but the stale stack entry. -/
def Obligations.CallThenRetComesBack : Prop :=
  ∀ (s : State) (nnn : Addr) (k : Fin 16), s.sp.val = k.val → ∃ t u, exec (.call nnn) s = .next t ∧
    exec .ret t = .next u ∧ u.pc = s.pc + 2 ∧ OnlyChanges s u (· ∈ [.stackEntry k, .pc, .mode])

/-- R103, R104, R107: skips that compare a register with an immediate. -/
def Obligations.ImmediateSkips : Prop :=
  ∀ s x kk,
    (∃ t, exec (.seImm x kk) s = .next t ∧
      t.pc = (if s.reg x = kk then s.pc + 4 else s.pc + 2) ∧ t.mode = .running ∧
      OnlyChanges s t (· ∈ [.pc, .mode])) ∧
    ∃ t, exec (.sneImm x kk) s = .next t ∧
      t.pc = (if s.reg x = kk then s.pc + 2 else s.pc + 4) ∧ t.mode = .running ∧
      OnlyChanges s t (· ∈ [.pc, .mode])

/-- R105, R106, R107: skips that compare two registers; with `x = y` the first always skips and the second never. -/
def Obligations.RegisterSkips : Prop :=
  ∀ s x y,
    (∃ t, exec (.seReg x y) s = .next t ∧
      t.pc = (if s.reg x = s.reg y then s.pc + 4 else s.pc + 2) ∧ t.mode = .running ∧
      OnlyChanges s t (· ∈ [.pc, .mode])) ∧
    ∃ t, exec (.sneReg x y) s = .next t ∧
      t.pc = (if s.reg x = s.reg y then s.pc + 2 else s.pc + 4) ∧ t.mode = .running ∧
      OnlyChanges s t (· ∈ [.pc, .mode])

/-- R108: the sum with `v[0]`. That it is not reduced mod 4096 is the spec's own choice (D6). -/
def Obligations.JpV0AddsV0 : Prop :=
  ∀ s nnn, ∃ t, exec (.jpV0 nnn) s = .next t ∧
    t.pc.toNat = nnn.toNat + (s.reg 0).toNat ∧ t.mode = .running ∧ OnlyChanges s t (· ∈ [.pc, .mode])

/-- R97: a word that is not an instruction emits one event and is passed over. What the event carries is the spec's own
choice (D16); the list it is kept in is the model's (log entry 9). -/
def Obligations.UnimplEmitsEvent : Prop :=
  ∀ s w, ∃ t, exec (.unimpl w) s = .next t ∧
    t.events = s.events ++ [{ addr := s.pc, word := w }] ∧ t.pc = s.pc + 2 ∧ t.mode = .running ∧
    OnlyChanges s t (· ∈ [.events, .pc, .mode])

/-! ## Register file and ALU (42_alu) -/

/-- R121. -/
def Obligations.LdImmLoads : Prop :=
  ∀ s x kk, ∃ t, exec (.ldImm x kk) s = .next t ∧
    t.reg x = kk ∧ t.pc = s.pc + 2 ∧ t.mode = .running ∧ OnlyChanges s t (· ∈ [.reg x, .pc, .mode])

/-- R122: no carry flag. -/
def Obligations.AddImmWraps : Prop :=
  ∀ s x kk, ∃ t, exec (.addImm x kk) s = .next t ∧
    (t.reg x).toNat = ((s.reg x).toNat + kk.toNat) % 256 ∧ t.pc = s.pc + 2 ∧ t.mode = .running ∧
    OnlyChanges s t (· ∈ [.reg x, .pc, .mode])

/-- R123. -/
def Obligations.LdRegCopies : Prop :=
  ∀ s x y, ∃ t, exec (.ldReg x y) s = .next t ∧
    t.reg x = s.reg y ∧ t.pc = s.pc + 2 ∧ t.mode = .running ∧ OnlyChanges s t (· ∈ [.reg x, .pc, .mode])

/-- R124, R125, R126: OR, AND, XOR bit by bit; VF is left alone. -/
def Obligations.LogicBitwise : Prop :=
  ∀ s x y,
    (∃ t, exec (.orReg x y) s = .next t ∧
      (∀ k, (t.reg x).getLsbD k = ((s.reg x).getLsbD k || (s.reg y).getLsbD k)) ∧
      t.pc = s.pc + 2 ∧ t.mode = .running ∧ OnlyChanges s t (· ∈ [.reg x, .pc, .mode])) ∧
    (∃ t, exec (.andReg x y) s = .next t ∧
      (∀ k, (t.reg x).getLsbD k = ((s.reg x).getLsbD k && (s.reg y).getLsbD k)) ∧
      t.pc = s.pc + 2 ∧ t.mode = .running ∧ OnlyChanges s t (· ∈ [.reg x, .pc, .mode])) ∧
    ∃ t, exec (.xorReg x y) s = .next t ∧
      (∀ k, (t.reg x).getLsbD k = ((s.reg x).getLsbD k ^^ (s.reg y).getLsbD k)) ∧
      t.pc = s.pc + 2 ∧ t.mode = .running ∧ OnlyChanges s t (· ∈ [.reg x, .pc, .mode])

/-- R127, R93: sum and carry; with `x = 15` the sum remains and the carry is lost (the spec's own
choice, D3). -/
def Obligations.AddRegSumAndCarry : Prop :=
  ∀ s x y, ∃ t, exec (.addReg x y) s = .next t ∧
    (t.reg x).toNat = ((s.reg x).toNat + (s.reg y).toNat) % 256 ∧
    (x ≠ vf → t.reg vf = if (s.reg x).toNat + (s.reg y).toNat > 255 then 1 else 0) ∧
    t.pc = s.pc + 2 ∧ t.mode = .running ∧ OnlyChanges s t (· ∈ [.reg x, .reg vf, .pc, .mode])

/-- R128, R130, R93: both subtractions; the flag is the strict comparison, 0 for equal operands; with `x = 15` the
difference remains (the spec's own choice, D2, D3). -/
def Obligations.SubtractionsAndFlag : Prop :=
  ∀ s x y,
    (∃ t, exec (.sub x y) s = .next t ∧
      (t.reg x).toNat = ((s.reg x).toNat + 256 - (s.reg y).toNat) % 256 ∧
      (x ≠ vf → t.reg vf = if (s.reg x).toNat > (s.reg y).toNat then 1 else 0) ∧
      t.pc = s.pc + 2 ∧ t.mode = .running ∧ OnlyChanges s t (· ∈ [.reg x, .reg vf, .pc, .mode])) ∧
    ∃ t, exec (.subn x y) s = .next t ∧
      (t.reg x).toNat = ((s.reg y).toNat + 256 - (s.reg x).toNat) % 256 ∧
      (x ≠ vf → t.reg vf = if (s.reg y).toNat > (s.reg x).toNat then 1 else 0) ∧
      t.pc = s.pc + 2 ∧ t.mode = .running ∧ OnlyChanges s t (· ∈ [.reg x, .reg vf, .pc, .mode])

/-- R129: shift right of the register the quirk names; the bit shifted out goes to VF first (with `x = 15` the spec's
own choice, D3). Nothing is assumed of the quirk. -/
def Obligations.ShrHalves : Prop :=
  ∀ s x y, ∃ t, exec (.shr x y) s = .next t ∧
    (t.reg x).toNat = (if shiftUsesVy then s.reg y else s.reg x).toNat / 2 ∧
    (x ≠ vf → (t.reg vf).toNat = (if shiftUsesVy then s.reg y else s.reg x).toNat % 2) ∧
    t.pc = s.pc + 2 ∧ t.mode = .running ∧ OnlyChanges s t (· ∈ [.reg x, .reg vf, .pc, .mode])

/-- R131: shift left of the register the quirk names; the bit shifted out goes to VF first (with `x = 15` the spec's
own choice, D3). Nothing is assumed of the quirk. -/
def Obligations.ShlDoubles : Prop :=
  ∀ s x y, ∃ t, exec (.shl x y) s = .next t ∧
    (t.reg x).toNat = (if shiftUsesVy then s.reg y else s.reg x).toNat * 2 % 256 ∧
    (x ≠ vf → (t.reg vf).toNat = (if shiftUsesVy then s.reg y else s.reg x).toNat / 128) ∧
    t.pc = s.pc + 2 ∧ t.mode = .running ∧ OnlyChanges s t (· ∈ [.reg x, .reg vf, .pc, .mode])

/-- R132: the free byte of this cycle masked with `kk`; the next draw sees another free byte. No value of the byte is
assumed. The sequence of bytes and the counter `rndCount` are the model's choice (log entry 3). -/
def Obligations.RndMasksFreeByte : Prop :=
  ∀ s x kk, ∃ t, exec (.rnd x kk) s = .next t ∧
    (∀ k, (t.reg x).getLsbD k = ((Config.rnd s.rndCount).getLsbD k && kk.getLsbD k)) ∧
    t.rndCount = s.rndCount + 1 ∧
    t.pc = s.pc + 2 ∧ t.mode = .running ∧ OnlyChanges s t (· ∈ [.reg x, .rndCount, .pc, .mode])

/-! ## Index register, loads and stores (43_index_memory) -/

/-- R140: `nnn` zero-extended. -/
def Obligations.LdISetsIndex : Prop :=
  ∀ s nnn, ∃ t, exec (.ldI nnn) s = .next t ∧
    t.i.toNat = nnn.toNat ∧ t.pc = s.pc + 2 ∧ t.mode = .running ∧ OnlyChanges s t (· ∈ [.i, .pc, .mode])

/-- R141: wraps mod 65536, not reduced to 12 bits; VF is not written. -/
def Obligations.AddIWraps : Prop :=
  ∀ s x, ∃ t, exec (.addI x) s = .next t ∧
    t.i.toNat = (s.i.toNat + (s.reg x).toNat) % 65536 ∧ t.pc = s.pc + 2 ∧ t.mode = .running ∧
    OnlyChanges s t (· ∈ [.i, .pc, .mode])

/-- R142: the whole byte is multiplied by 5. -/
def Obligations.LdFPointsAtGlyph : Prop :=
  ∀ s x, ∃ t, exec (.ldF x) s = .next t ∧
    t.i.toNat = 5 * (s.reg x).toNat ∧ t.pc = s.pc + 2 ∧ t.mode = .running ∧
    OnlyChanges s t (· ∈ [.i, .pc, .mode])

/-- R143: three decimal digits, hundreds first; `i` is unchanged. That an address past 0xFFF wraps is the advice of the
source that the spec follows (D9). RAM in canonical form is part of the invariant
(`StepKeepsInv`). -/
def Obligations.LdBStoresDigits : Prop :=
  ∀ (s : State) (x : Reg), s.mem.wf = true → ∃ t, exec (.ldB x) s = .next t ∧
    (t.ram (ea s.i 0).toNat).toNat = (s.reg x).toNat / 100 ∧
    (t.ram (ea s.i 1).toNat).toNat = (s.reg x).toNat / 10 % 10 ∧
    (t.ram (ea s.i 2).toNat).toNat = (s.reg x).toNat % 10 ∧
    t.pc = s.pc + 2 ∧ t.mode = .running ∧
    OnlyChanges s t (fun p => p ∈ [.pc, .mode] ∨ ∃ k, k < 3 ∧ p = .ram (ea s.i k).toNat)

/-- R144: registers `v[0]` to `v[x]` at `ea(0)` to `ea(x)`; `i` advances by `x + 1` mod 65536 when the quirk says
so (the width of the advance is the spec's own choice, D10; addresses wrap by D9). RAM in canonical form is part of the
invariant (`StepKeepsInv`). -/
def Obligations.StoreRegsStores : Prop :=
  ∀ (s : State) (x : Reg), s.mem.wf = true → ∃ t, exec (.storeRegs x) s = .next t ∧
    (∀ k : Reg, k ≤ x → t.ram (ea s.i k.val).toNat = s.reg k) ∧
    t.i.toNat = (if storeReadAdvancesI then (s.i.toNat + x.val + 1) % 65536 else s.i.toNat) ∧
    t.pc = s.pc + 2 ∧ t.mode = .running ∧
    OnlyChanges s t (fun p => p ∈ [.i, .pc, .mode] ∨ ∃ k, k ≤ x.val ∧ p = .ram (ea s.i k).toNat)

/-- R145: registers `v[0]` to `v[x]` from `ea(0)` to `ea(x)`; `i` as for the store (D9, D10); RAM is not
changed. -/
def Obligations.LoadRegsLoads : Prop :=
  ∀ s x, ∃ t, exec (.loadRegs x) s = .next t ∧
    (∀ k : Reg, k ≤ x → t.reg k = s.ram (ea s.i k.val).toNat) ∧
    t.i.toNat = (if storeReadAdvancesI then (s.i.toNat + x.val + 1) % 65536 else s.i.toNat) ∧
    t.pc = s.pc + 2 ∧ t.mode = .running ∧
    OnlyChanges s t (fun p => p ∈ [.i, .pc, .mode] ∨ ∃ k : Reg, k ≤ x ∧ p = .reg k)

/-! ## Display (44_display) -/

/-- R151: every cell 0. That VF is unchanged is the spec's own choice (D15). -/
def Obligations.ClsClears : Prop :=
  ∀ s, ∃ t, exec .cls s = .next t ∧
    (∀ px py, t.pixel px py = false) ∧ t.pc = s.pc + 2 ∧ t.mode = .running ∧
    OnlyChanges s t (fun p => p ∈ [.pc, .mode] ∨ ∃ px py, p = .pixel px py)

/-- R152 by R153(b): the new display is the old one XOR the wrapped sprite mask, and VF is 1 exactly when a lit cell is
under the mask. Coordinates and `i` are the values before the instruction, also for register 15 (the
spec's own choice, D2); addresses wrap by D9. -/
def Obligations.DrwXorsWrappedSprite : Prop :=
  ∀ s x y n, ∃ t, exec (.drw x y n) s = .next t ∧
    (∀ px py, SpriteCovers (fun row => s.ram (ea s.i row).toNat) (s.reg x).toNat (s.reg y).toNat n.val px py →
      t.pixel px py = !s.pixel px py) ∧
    ((∃ px py, SpriteCovers (fun row => s.ram (ea s.i row).toNat) (s.reg x).toNat (s.reg y).toNat n.val px py ∧
        s.pixel px py = true) → t.reg vf = 1) ∧
    ((∀ px py, SpriteCovers (fun row => s.ram (ea s.i row).toNat) (s.reg x).toNat (s.reg y).toNat n.val px py →
        s.pixel px py = false) → t.reg vf = 0) ∧
    t.pc = s.pc + 2 ∧ t.mode = .running ∧
    OnlyChanges s t (fun p => p ∈ [.reg vf, .pc, .mode] ∨ ∃ px py, p = .pixel px py ∧
      SpriteCovers (fun row => s.ram (ea s.i row).toNat) (s.reg x).toNat (s.reg y).toNat n.val px py)

/-- R152 corner cases (e) and (f): drawing the same sprite twice restores the display, and the second draw collides
exactly when some cell under a 1 bit of the sprite was off before the first (log entry 8: the spec's remark says "whenever
the sprite has at least one 1 bit", which its own pseudocode gives only then). -/
def Obligations.DrawTwiceRestores : Prop :=
  ∀ (d : Display) (rows : Nat → Byte) (xs ys : Nat) (n : Fin 16),
    ((d.drawSprite rows xs ys n.val).1.drawSprite rows xs ys n.val).1 = d ∧
    (((d.drawSprite rows xs ys n.val).1.drawSprite rows xs ys n.val).2 = true ↔
      ∃ px py, SpriteCovers rows xs ys n.val px py ∧ d.cell px py = false)

/-- R151 (property of the source's §8): `00E0` followed immediately by any `Dxyn` never reports a collision. -/
def Obligations.NoCollisionAfterCls : Prop :=
  ∀ s x y n, ∃ t u, exec .cls s = .next t ∧ exec (.drw x y n) t = .next u ∧ u.reg vf = 0

/-! ## Keypad and timers (45_keypad_timers) -/

/-- R160, R161, R166, R107: the flag tested is `key[v[x] mod 16]`; the reduction of an index above 15 is the
spec's own choice (D11). -/
def Obligations.KeySkips : Prop :=
  ∀ (s : State) (x : Reg) (k : Fin 16), k.val = (s.reg x).toNat % 16 →
    (∃ t, exec (.skp x) s = .next t ∧
      t.pc = (if s.keyDown k = true then s.pc + 4 else s.pc + 2) ∧ t.mode = .running ∧
      OnlyChanges s t (· ∈ [.pc, .mode])) ∧
    ∃ t, exec (.sknp x) s = .next t ∧
      t.pc = (if s.keyDown k = true then s.pc + 2 else s.pc + 4) ∧ t.mode = .running ∧
      OnlyChanges s t (· ∈ [.pc, .mode])

/-- R162: the least key that is down is taken at once; with none down only `mode` changes. -/
def Obligations.LdVxKTakesLowestKey : Prop :=
  ∀ s x,
    (∀ k : Fin 16, s.keyDown k = true → (∀ j, j < k → s.keyDown j = false) →
      ∃ t, exec (.ldVxK x) s = .next t ∧
        (t.reg x).toNat = k.val ∧ t.pc = s.pc + 2 ∧ t.mode = .running ∧
        OnlyChanges s t (· ∈ [.reg x, .pc, .mode])) ∧
    ((∀ k, s.keyDown k = false) →
      ∃ t, exec (.ldVxK x) s = .next t ∧ t.mode = .waitingForKey ∧ OnlyChanges s t (· = .mode))

/-- R163, R164, R165: reading `dt`, writing `dt`, writing `st`. -/
def Obligations.TimerMoves : Prop :=
  ∀ s x,
    (∃ t, exec (.ldVxDt x) s = .next t ∧ t.reg x = s.dt ∧ t.pc = s.pc + 2 ∧ t.mode = .running ∧
      OnlyChanges s t (· ∈ [.reg x, .pc, .mode])) ∧
    (∃ t, exec (.ldDtVx x) s = .next t ∧ t.dt = s.reg x ∧ t.pc = s.pc + 2 ∧ t.mode = .running ∧
      OnlyChanges s t (· ∈ [.dt, .pc, .mode])) ∧
    ∃ t, exec (.ldStVx x) s = .next t ∧ t.st = s.reg x ∧ t.pc = s.pc + 2 ∧ t.mode = .running ∧
      OnlyChanges s t (· ∈ [.st, .pc, .mode])
end

