-- ==== Sys2Proof/Laws/Decode.lean ====
section
/-! SUPPORT. The fields of a word as arithmetic on its value (spec R71: `w = op * 4096 + nnn`, `nnn = x * 256 + y * 16 + n`,
`kk = y * 16 + n`), and the value of an encoded word. -/

namespace Sys2Proof

theorem opField_eq (w : Word) : opField w = w.toNat / 4096 := by
  have := w.isLt
  simp only [opField, BitVec.extractLsb_toNat, Nat.shiftRight_eq_div_pow]
  omega

theorem xField_val (w : Word) : (xField w).val = w.toNat / 256 % 16 := by
  show (w.extractLsb 11 8).toNat = _
  simp only [BitVec.extractLsb_toNat, Nat.shiftRight_eq_div_pow]

theorem yField_val (w : Word) : (yField w).val = w.toNat / 16 % 16 := by
  show (w.extractLsb 7 4).toNat = _
  simp only [BitVec.extractLsb_toNat, Nat.shiftRight_eq_div_pow]

theorem nField_val (w : Word) : (nField w).val = w.toNat % 16 := by
  show (w.extractLsb 3 0).toNat = _
  simp only [BitVec.extractLsb_toNat, Nat.shiftRight_eq_div_pow]
  omega

theorem kkField_toNat (w : Word) : (kkField w).toNat = w.toNat % 256 := by
  simp only [kkField, BitVec.extractLsb_toNat, Nat.shiftRight_eq_div_pow]
  omega

theorem nnnField_toNat (w : Word) : (nnnField w).toNat = w.toNat % 4096 := by
  simp only [nnnField, BitVec.extractLsb_toNat, Nat.shiftRight_eq_div_pow]
  omega

theorem encodeNNN_toNat (op : Nat) (nnn : Addr) (h : op < 16) : (encodeNNN op nnn).toNat = op * 4096 + nnn.toNat := by
  have := nnn.isLt
  simp only [encodeNNN, BitVec.toNat_ofNat]
  omega

theorem encodeXKK_toNat (op : Nat) (x : Reg) (kk : Byte) (h : op < 16) :
    (encodeXKK op x kk).toNat = op * 4096 + x.val * 256 + kk.toNat := by
  have := kk.isLt
  have := x.isLt
  simp only [encodeXKK, BitVec.toNat_ofNat]
  omega

theorem encodeXYN_toNat (op : Nat) (x y : Reg) (n : Fin 16) (h : op < 16) :
    (encodeXYN op x y n).toNat = op * 4096 + x.val * 256 + y.val * 16 + n.val := by
  have := x.isLt
  have := y.isLt
  have := n.isLt
  simp only [encodeXYN, BitVec.toNat_ofNat]
  omega

/-- Decoding two bytes is decoding their word, and the rest of the list is the rest. -/
@[simp] theorem decode_cons_cons (b0 b1 : Byte) (rest : List Byte) :
    decode (b0 :: b1 :: rest) = .ok (decodeWord (word b0 b1), rest) := rfl

/-- The bytes of a word make that word again. -/
theorem decodeTableWord_eq (nbits w : Nat) :
    decodeTableWord nbits w = some (decodeWord (tableWord nbits w)) := by
  show some (decodeWord (word _ _)) = _
  congr 2
  apply BitVec.eq_of_getLsbD_eq
  intro k hk
  simp only [word, BitVec.getLsbD_append, BitVec.getLsbD_extractLsb]
  by_cases h : k < 8
  · simp [h]
  · simp [h, show k - 8 < 8 by omega, show 8 + (k - 8) = k by omega]

/-- The mask 0xF000 keeps `op`. -/
theorem mask_op (w : Word) : (w &&& 0xF000#16).toNat = w.toNat / 4096 * 4096 := by
  have h : w &&& 0xF000#16 = (w >>> 12) <<< 12 := by
    ext j hj; interval_cases j <;> simp
  have := w.isLt
  rw [h]
  simp only [BitVec.toNat_shiftLeft, BitVec.toNat_ushiftRight, Nat.shiftRight_eq_div_pow, Nat.shiftLeft_eq]
  omega

/-- The mask 0xF00F keeps `op` and `n`. -/
theorem mask_op_n (w : Word) : (w &&& 0xF00F#16).toNat = w.toNat / 4096 * 4096 + w.toNat % 16 := by
  have e : w &&& 0xF00F#16 = (w &&& 0xF000#16) + (w &&& 0x000F#16) := by
    rw [BitVec.add_eq_or_of_and_eq_zero] <;> ext j hj <;> interval_cases j <;> simp
  have lo : (w &&& 0x000F#16).toNat = w.toNat % 16 := by
    rw [BitVec.toNat_and]; exact Nat.and_two_pow_sub_one_eq_mod w.toNat 4
  have := w.isLt
  rw [e, BitVec.toNat_add, mask_op, lo]
  omega

/-- The mask 0xF0FF keeps `op` and `kk`. -/
theorem mask_op_kk (w : Word) : (w &&& 0xF0FF#16).toNat = w.toNat / 4096 * 4096 + w.toNat % 256 := by
  have e : w &&& 0xF0FF#16 = (w &&& 0xF000#16) + (w &&& 0x00FF#16) := by
    rw [BitVec.add_eq_or_of_and_eq_zero] <;> ext j hj <;> interval_cases j <;> simp
  have lo : (w &&& 0x00FF#16).toNat = w.toNat % 256 := by
    rw [BitVec.toNat_and]; exact Nat.and_two_pow_sub_one_eq_mod w.toNat 8
  have := w.isLt
  rw [e, BitVec.toNat_add, mask_op, lo]
  omega

/-- A word matches a row of R74 exactly when the fields its mask keeps are the row's. -/
theorem accepts_iff_op (m : String) (p w : Word) :
    (OpcodeRow.mk m 0xF000 p).accepts w = true ↔ w.toNat / 4096 * 4096 = p.toNat := by
  rw [← mask_op]
  simp [OpcodeRow.accepts, BitVec.toNat_eq]

theorem accepts_iff_op_n (m : String) (p w : Word) :
    (OpcodeRow.mk m 0xF00F p).accepts w = true ↔ w.toNat / 4096 * 4096 + w.toNat % 16 = p.toNat := by
  rw [← mask_op_n]
  simp [OpcodeRow.accepts, BitVec.toNat_eq]

theorem accepts_iff_op_kk (m : String) (p w : Word) :
    (OpcodeRow.mk m 0xF0FF p).accepts w = true ↔ w.toNat / 4096 * 4096 + w.toNat % 256 = p.toNat := by
  rw [← mask_op_kk]
  simp [OpcodeRow.accepts, BitVec.toNat_eq]

theorem accepts_iff_word (m : String) (p w : Word) :
    (OpcodeRow.mk m 0xFFFF p).accepts w = true ↔ w.toNat = p.toNat := by
  have : w &&& 0xFFFF#16 = w := by
    ext j hj; interval_cases j <;> simp
  show ((w &&& 0xFFFF#16) == p) = true ↔ _
  rw [this]
  simp [BitVec.toNat_eq]

/-! The fields of an encoded word. -/

section
variable {op : Nat} (x y : Reg) (n : Fin 16) (kk : Byte) (nnn : Addr)

theorem opField_encodeNNN (h : op < 16) : opField (encodeNNN op nnn) = op := by
  have := nnn.isLt
  rw [opField_eq, encodeNNN_toNat op nnn h]; omega

theorem nnnField_encodeNNN (h : op < 16) : nnnField (encodeNNN op nnn) = nnn := by
  have := nnn.isLt
  apply BitVec.eq_of_toNat_eq
  rw [nnnField_toNat, encodeNNN_toNat op nnn h]; omega

theorem opField_encodeXKK (h : op < 16) : opField (encodeXKK op x kk) = op := by
  have := kk.isLt
  rw [opField_eq, encodeXKK_toNat op x kk h]; omega

theorem xField_encodeXKK (h : op < 16) : xField (encodeXKK op x kk) = x := by
  have := kk.isLt
  apply Fin.ext
  rw [xField_val, encodeXKK_toNat op x kk h]; omega

theorem kkField_encodeXKK (h : op < 16) : kkField (encodeXKK op x kk) = kk := by
  have := kk.isLt
  apply BitVec.eq_of_toNat_eq
  rw [kkField_toNat, encodeXKK_toNat op x kk h]; omega

theorem opField_encodeXYN (h : op < 16) : opField (encodeXYN op x y n) = op := by
  rw [opField_eq, encodeXYN_toNat op x y n h]; omega

theorem xField_encodeXYN (h : op < 16) : xField (encodeXYN op x y n) = x := by
  apply Fin.ext
  rw [xField_val, encodeXYN_toNat op x y n h]; omega

theorem yField_encodeXYN (h : op < 16) : yField (encodeXYN op x y n) = y := by
  apply Fin.ext
  rw [yField_val, encodeXYN_toNat op x y n h]; omega

theorem nField_encodeXYN (h : op < 16) : nField (encodeXYN op x y n) = n := by
  apply Fin.ext
  rw [nField_val, encodeXYN_toNat op x y n h]; omega

end

end Sys2Proof
end

