-- ==== Sys2Proof/Laws/State.lean ====
section
/-! SUPPORT. One lemma for each field, and each accessor, of each named update of the state: what it is after the
update. -/

namespace Sys2Proof.Machine.State

variable (s : State)

/-! The updates made of others. -/

@[simp] theorem advance_eq : s.advance = s.goto (s.pc + 2) := rfl
@[simp] theorem skipIf_eq (c : Bool) : s.skipIf c = s.goto (if c then s.pc + 4 else s.pc + 2) := rfl
@[simp] theorem setFlagged_eq (x : Reg) (f r : Byte) : s.setFlagged x f r = (s.setReg vf f).setReg x r := rfl

/-! `setMem` -/

@[simp] theorem setMem_v (m : Memory) : (s.setMem m).v = s.v := rfl
@[simp] theorem setMem_i (m : Memory) : (s.setMem m).i = s.i := rfl
@[simp] theorem setMem_pc (m : Memory) : (s.setMem m).pc = s.pc := rfl
@[simp] theorem setMem_sp (m : Memory) : (s.setMem m).sp = s.sp := rfl
@[simp] theorem setMem_stack (m : Memory) : (s.setMem m).stack = s.stack := rfl
@[simp] theorem setMem_dt (m : Memory) : (s.setMem m).dt = s.dt := rfl
@[simp] theorem setMem_st (m : Memory) : (s.setMem m).st = s.st := rfl
@[simp] theorem setMem_mem (m : Memory) : (s.setMem m).mem = m := rfl
@[simp] theorem setMem_disp (m : Memory) : (s.setMem m).disp = s.disp := rfl
@[simp] theorem setMem_key (m : Memory) : (s.setMem m).key = s.key := rfl
@[simp] theorem setMem_mode (m : Memory) : (s.setMem m).mode = s.mode := rfl
@[simp] theorem setMem_halt (m : Memory) : (s.setMem m).halt = s.halt := rfl
@[simp] theorem setMem_events (m : Memory) : (s.setMem m).events = s.events := rfl
@[simp] theorem setMem_rndCount (m : Memory) : (s.setMem m).rndCount = s.rndCount := rfl
@[simp] theorem setMem_hostQueue (m : Memory) : (s.setMem m).hostQueue = s.hostQueue := rfl
@[simp] theorem setMem_reg (m : Memory) (z : Reg) : (s.setMem m).reg z = s.reg z := rfl
@[simp] theorem setMem_pixel (m : Memory) (z : Fin 64) (z' : Fin 32) : (s.setMem m).pixel z z' = s.pixel z z' := rfl
@[simp] theorem setMem_keyDown (m : Memory) (z : Fin 16) : (s.setMem m).keyDown z = s.keyDown z := rfl

/-! `setReg` -/

@[simp] theorem setReg_v (x : Reg) (b : Byte) : (s.setReg x b).v = s.v.set x b := rfl
@[simp] theorem setReg_i (x : Reg) (b : Byte) : (s.setReg x b).i = s.i := rfl
@[simp] theorem setReg_pc (x : Reg) (b : Byte) : (s.setReg x b).pc = s.pc := rfl
@[simp] theorem setReg_sp (x : Reg) (b : Byte) : (s.setReg x b).sp = s.sp := rfl
@[simp] theorem setReg_stack (x : Reg) (b : Byte) : (s.setReg x b).stack = s.stack := rfl
@[simp] theorem setReg_dt (x : Reg) (b : Byte) : (s.setReg x b).dt = s.dt := rfl
@[simp] theorem setReg_st (x : Reg) (b : Byte) : (s.setReg x b).st = s.st := rfl
@[simp] theorem setReg_mem (x : Reg) (b : Byte) : (s.setReg x b).mem = s.mem := rfl
@[simp] theorem setReg_disp (x : Reg) (b : Byte) : (s.setReg x b).disp = s.disp := rfl
@[simp] theorem setReg_key (x : Reg) (b : Byte) : (s.setReg x b).key = s.key := rfl
@[simp] theorem setReg_mode (x : Reg) (b : Byte) : (s.setReg x b).mode = s.mode := rfl
@[simp] theorem setReg_halt (x : Reg) (b : Byte) : (s.setReg x b).halt = s.halt := rfl
@[simp] theorem setReg_events (x : Reg) (b : Byte) : (s.setReg x b).events = s.events := rfl
@[simp] theorem setReg_rndCount (x : Reg) (b : Byte) : (s.setReg x b).rndCount = s.rndCount := rfl
@[simp] theorem setReg_hostQueue (x : Reg) (b : Byte) : (s.setReg x b).hostQueue = s.hostQueue := rfl
@[simp] theorem setReg_ram (x : Reg) (b : Byte) (z : Nat) : (s.setReg x b).ram z = s.ram z := rfl
@[simp] theorem setReg_pixel (x : Reg) (b : Byte) (z : Fin 64) (z' : Fin 32) : (s.setReg x b).pixel z z' = s.pixel z z' := rfl
@[simp] theorem setReg_keyDown (x : Reg) (b : Byte) (z : Fin 16) : (s.setReg x b).keyDown z = s.keyDown z := rfl

/-! `setRegs` -/

@[simp] theorem setRegs_v (f : Reg → Byte) : (s.setRegs f).v = Vector.ofFn f := rfl
@[simp] theorem setRegs_i (f : Reg → Byte) : (s.setRegs f).i = s.i := rfl
@[simp] theorem setRegs_pc (f : Reg → Byte) : (s.setRegs f).pc = s.pc := rfl
@[simp] theorem setRegs_sp (f : Reg → Byte) : (s.setRegs f).sp = s.sp := rfl
@[simp] theorem setRegs_stack (f : Reg → Byte) : (s.setRegs f).stack = s.stack := rfl
@[simp] theorem setRegs_dt (f : Reg → Byte) : (s.setRegs f).dt = s.dt := rfl
@[simp] theorem setRegs_st (f : Reg → Byte) : (s.setRegs f).st = s.st := rfl
@[simp] theorem setRegs_mem (f : Reg → Byte) : (s.setRegs f).mem = s.mem := rfl
@[simp] theorem setRegs_disp (f : Reg → Byte) : (s.setRegs f).disp = s.disp := rfl
@[simp] theorem setRegs_key (f : Reg → Byte) : (s.setRegs f).key = s.key := rfl
@[simp] theorem setRegs_mode (f : Reg → Byte) : (s.setRegs f).mode = s.mode := rfl
@[simp] theorem setRegs_halt (f : Reg → Byte) : (s.setRegs f).halt = s.halt := rfl
@[simp] theorem setRegs_events (f : Reg → Byte) : (s.setRegs f).events = s.events := rfl
@[simp] theorem setRegs_rndCount (f : Reg → Byte) : (s.setRegs f).rndCount = s.rndCount := rfl
@[simp] theorem setRegs_hostQueue (f : Reg → Byte) : (s.setRegs f).hostQueue = s.hostQueue := rfl
@[simp] theorem setRegs_ram (f : Reg → Byte) (z : Nat) : (s.setRegs f).ram z = s.ram z := rfl
@[simp] theorem setRegs_pixel (f : Reg → Byte) (z : Fin 64) (z' : Fin 32) : (s.setRegs f).pixel z z' = s.pixel z z' := rfl
@[simp] theorem setRegs_keyDown (f : Reg → Byte) (z : Fin 16) : (s.setRegs f).keyDown z = s.keyDown z := rfl

/-! `setI` -/

@[simp] theorem setI_v (a : Word) : (s.setI a).v = s.v := rfl
@[simp] theorem setI_i (a : Word) : (s.setI a).i = a := rfl
@[simp] theorem setI_pc (a : Word) : (s.setI a).pc = s.pc := rfl
@[simp] theorem setI_sp (a : Word) : (s.setI a).sp = s.sp := rfl
@[simp] theorem setI_stack (a : Word) : (s.setI a).stack = s.stack := rfl
@[simp] theorem setI_dt (a : Word) : (s.setI a).dt = s.dt := rfl
@[simp] theorem setI_st (a : Word) : (s.setI a).st = s.st := rfl
@[simp] theorem setI_mem (a : Word) : (s.setI a).mem = s.mem := rfl
@[simp] theorem setI_disp (a : Word) : (s.setI a).disp = s.disp := rfl
@[simp] theorem setI_key (a : Word) : (s.setI a).key = s.key := rfl
@[simp] theorem setI_mode (a : Word) : (s.setI a).mode = s.mode := rfl
@[simp] theorem setI_halt (a : Word) : (s.setI a).halt = s.halt := rfl
@[simp] theorem setI_events (a : Word) : (s.setI a).events = s.events := rfl
@[simp] theorem setI_rndCount (a : Word) : (s.setI a).rndCount = s.rndCount := rfl
@[simp] theorem setI_hostQueue (a : Word) : (s.setI a).hostQueue = s.hostQueue := rfl
@[simp] theorem setI_reg (a : Word) (z : Reg) : (s.setI a).reg z = s.reg z := rfl
@[simp] theorem setI_ram (a : Word) (z : Nat) : (s.setI a).ram z = s.ram z := rfl
@[simp] theorem setI_pixel (a : Word) (z : Fin 64) (z' : Fin 32) : (s.setI a).pixel z z' = s.pixel z z' := rfl
@[simp] theorem setI_keyDown (a : Word) (z : Fin 16) : (s.setI a).keyDown z = s.keyDown z := rfl

/-! `setDt` -/

@[simp] theorem setDt_v (b : Byte) : (s.setDt b).v = s.v := rfl
@[simp] theorem setDt_i (b : Byte) : (s.setDt b).i = s.i := rfl
@[simp] theorem setDt_pc (b : Byte) : (s.setDt b).pc = s.pc := rfl
@[simp] theorem setDt_sp (b : Byte) : (s.setDt b).sp = s.sp := rfl
@[simp] theorem setDt_stack (b : Byte) : (s.setDt b).stack = s.stack := rfl
@[simp] theorem setDt_dt (b : Byte) : (s.setDt b).dt = b := rfl
@[simp] theorem setDt_st (b : Byte) : (s.setDt b).st = s.st := rfl
@[simp] theorem setDt_mem (b : Byte) : (s.setDt b).mem = s.mem := rfl
@[simp] theorem setDt_disp (b : Byte) : (s.setDt b).disp = s.disp := rfl
@[simp] theorem setDt_key (b : Byte) : (s.setDt b).key = s.key := rfl
@[simp] theorem setDt_mode (b : Byte) : (s.setDt b).mode = s.mode := rfl
@[simp] theorem setDt_halt (b : Byte) : (s.setDt b).halt = s.halt := rfl
@[simp] theorem setDt_events (b : Byte) : (s.setDt b).events = s.events := rfl
@[simp] theorem setDt_rndCount (b : Byte) : (s.setDt b).rndCount = s.rndCount := rfl
@[simp] theorem setDt_hostQueue (b : Byte) : (s.setDt b).hostQueue = s.hostQueue := rfl
@[simp] theorem setDt_reg (b : Byte) (z : Reg) : (s.setDt b).reg z = s.reg z := rfl
@[simp] theorem setDt_ram (b : Byte) (z : Nat) : (s.setDt b).ram z = s.ram z := rfl
@[simp] theorem setDt_pixel (b : Byte) (z : Fin 64) (z' : Fin 32) : (s.setDt b).pixel z z' = s.pixel z z' := rfl
@[simp] theorem setDt_keyDown (b : Byte) (z : Fin 16) : (s.setDt b).keyDown z = s.keyDown z := rfl

/-! `setSt` -/

@[simp] theorem setSt_v (b : Byte) : (s.setSt b).v = s.v := rfl
@[simp] theorem setSt_i (b : Byte) : (s.setSt b).i = s.i := rfl
@[simp] theorem setSt_pc (b : Byte) : (s.setSt b).pc = s.pc := rfl
@[simp] theorem setSt_sp (b : Byte) : (s.setSt b).sp = s.sp := rfl
@[simp] theorem setSt_stack (b : Byte) : (s.setSt b).stack = s.stack := rfl
@[simp] theorem setSt_dt (b : Byte) : (s.setSt b).dt = s.dt := rfl
@[simp] theorem setSt_st (b : Byte) : (s.setSt b).st = b := rfl
@[simp] theorem setSt_mem (b : Byte) : (s.setSt b).mem = s.mem := rfl
@[simp] theorem setSt_disp (b : Byte) : (s.setSt b).disp = s.disp := rfl
@[simp] theorem setSt_key (b : Byte) : (s.setSt b).key = s.key := rfl
@[simp] theorem setSt_mode (b : Byte) : (s.setSt b).mode = s.mode := rfl
@[simp] theorem setSt_halt (b : Byte) : (s.setSt b).halt = s.halt := rfl
@[simp] theorem setSt_events (b : Byte) : (s.setSt b).events = s.events := rfl
@[simp] theorem setSt_rndCount (b : Byte) : (s.setSt b).rndCount = s.rndCount := rfl
@[simp] theorem setSt_hostQueue (b : Byte) : (s.setSt b).hostQueue = s.hostQueue := rfl
@[simp] theorem setSt_reg (b : Byte) (z : Reg) : (s.setSt b).reg z = s.reg z := rfl
@[simp] theorem setSt_ram (b : Byte) (z : Nat) : (s.setSt b).ram z = s.ram z := rfl
@[simp] theorem setSt_pixel (b : Byte) (z : Fin 64) (z' : Fin 32) : (s.setSt b).pixel z z' = s.pixel z z' := rfl
@[simp] theorem setSt_keyDown (b : Byte) (z : Fin 16) : (s.setSt b).keyDown z = s.keyDown z := rfl

/-! `setDisp` -/

@[simp] theorem setDisp_v (d : Display) : (s.setDisp d).v = s.v := rfl
@[simp] theorem setDisp_i (d : Display) : (s.setDisp d).i = s.i := rfl
@[simp] theorem setDisp_pc (d : Display) : (s.setDisp d).pc = s.pc := rfl
@[simp] theorem setDisp_sp (d : Display) : (s.setDisp d).sp = s.sp := rfl
@[simp] theorem setDisp_stack (d : Display) : (s.setDisp d).stack = s.stack := rfl
@[simp] theorem setDisp_dt (d : Display) : (s.setDisp d).dt = s.dt := rfl
@[simp] theorem setDisp_st (d : Display) : (s.setDisp d).st = s.st := rfl
@[simp] theorem setDisp_mem (d : Display) : (s.setDisp d).mem = s.mem := rfl
@[simp] theorem setDisp_disp (d : Display) : (s.setDisp d).disp = d := rfl
@[simp] theorem setDisp_key (d : Display) : (s.setDisp d).key = s.key := rfl
@[simp] theorem setDisp_mode (d : Display) : (s.setDisp d).mode = s.mode := rfl
@[simp] theorem setDisp_halt (d : Display) : (s.setDisp d).halt = s.halt := rfl
@[simp] theorem setDisp_events (d : Display) : (s.setDisp d).events = s.events := rfl
@[simp] theorem setDisp_rndCount (d : Display) : (s.setDisp d).rndCount = s.rndCount := rfl
@[simp] theorem setDisp_hostQueue (d : Display) : (s.setDisp d).hostQueue = s.hostQueue := rfl
@[simp] theorem setDisp_reg (d : Display) (z : Reg) : (s.setDisp d).reg z = s.reg z := rfl
@[simp] theorem setDisp_ram (d : Display) (z : Nat) : (s.setDisp d).ram z = s.ram z := rfl
@[simp] theorem setDisp_keyDown (d : Display) (z : Fin 16) : (s.setDisp d).keyDown z = s.keyDown z := rfl

/-! `setKey` -/

@[simp] theorem setKey_v (k : Fin 16) (p : Bool) : (s.setKey k p).v = s.v := rfl
@[simp] theorem setKey_i (k : Fin 16) (p : Bool) : (s.setKey k p).i = s.i := rfl
@[simp] theorem setKey_pc (k : Fin 16) (p : Bool) : (s.setKey k p).pc = s.pc := rfl
@[simp] theorem setKey_sp (k : Fin 16) (p : Bool) : (s.setKey k p).sp = s.sp := rfl
@[simp] theorem setKey_stack (k : Fin 16) (p : Bool) : (s.setKey k p).stack = s.stack := rfl
@[simp] theorem setKey_dt (k : Fin 16) (p : Bool) : (s.setKey k p).dt = s.dt := rfl
@[simp] theorem setKey_st (k : Fin 16) (p : Bool) : (s.setKey k p).st = s.st := rfl
@[simp] theorem setKey_mem (k : Fin 16) (p : Bool) : (s.setKey k p).mem = s.mem := rfl
@[simp] theorem setKey_disp (k : Fin 16) (p : Bool) : (s.setKey k p).disp = s.disp := rfl
@[simp] theorem setKey_key (k : Fin 16) (p : Bool) : (s.setKey k p).key = s.key.set k p := rfl
@[simp] theorem setKey_mode (k : Fin 16) (p : Bool) : (s.setKey k p).mode = s.mode := rfl
@[simp] theorem setKey_halt (k : Fin 16) (p : Bool) : (s.setKey k p).halt = s.halt := rfl
@[simp] theorem setKey_events (k : Fin 16) (p : Bool) : (s.setKey k p).events = s.events := rfl
@[simp] theorem setKey_rndCount (k : Fin 16) (p : Bool) : (s.setKey k p).rndCount = s.rndCount := rfl
@[simp] theorem setKey_hostQueue (k : Fin 16) (p : Bool) : (s.setKey k p).hostQueue = s.hostQueue := rfl
@[simp] theorem setKey_reg (k : Fin 16) (p : Bool) (z : Reg) : (s.setKey k p).reg z = s.reg z := rfl
@[simp] theorem setKey_ram (k : Fin 16) (p : Bool) (z : Nat) : (s.setKey k p).ram z = s.ram z := rfl
@[simp] theorem setKey_pixel (k : Fin 16) (p : Bool) (z : Fin 64) (z' : Fin 32) : (s.setKey k p).pixel z z' = s.pixel z z' := rfl

/-! `drawn` -/

@[simp] theorem drawn_v : s.drawn.v = s.v := rfl
@[simp] theorem drawn_i : s.drawn.i = s.i := rfl
@[simp] theorem drawn_pc : s.drawn.pc = s.pc := rfl
@[simp] theorem drawn_sp : s.drawn.sp = s.sp := rfl
@[simp] theorem drawn_stack : s.drawn.stack = s.stack := rfl
@[simp] theorem drawn_dt : s.drawn.dt = s.dt := rfl
@[simp] theorem drawn_st : s.drawn.st = s.st := rfl
@[simp] theorem drawn_mem : s.drawn.mem = s.mem := rfl
@[simp] theorem drawn_disp : s.drawn.disp = s.disp := rfl
@[simp] theorem drawn_key : s.drawn.key = s.key := rfl
@[simp] theorem drawn_mode : s.drawn.mode = s.mode := rfl
@[simp] theorem drawn_halt : s.drawn.halt = s.halt := rfl
@[simp] theorem drawn_events : s.drawn.events = s.events := rfl
@[simp] theorem drawn_rndCount : s.drawn.rndCount = s.rndCount + 1 := rfl
@[simp] theorem drawn_hostQueue : s.drawn.hostQueue = s.hostQueue := rfl
@[simp] theorem drawn_reg (z : Reg) : s.drawn.reg z = s.reg z := rfl
@[simp] theorem drawn_ram (z : Nat) : s.drawn.ram z = s.ram z := rfl
@[simp] theorem drawn_pixel (z : Fin 64) (z' : Fin 32) : s.drawn.pixel z z' = s.pixel z z' := rfl
@[simp] theorem drawn_keyDown (z : Fin 16) : s.drawn.keyDown z = s.keyDown z := rfl

/-! `goto` -/

@[simp] theorem goto_v (a : Word) : (s.goto a).v = s.v := rfl
@[simp] theorem goto_i (a : Word) : (s.goto a).i = s.i := rfl
@[simp] theorem goto_pc (a : Word) : (s.goto a).pc = a := rfl
@[simp] theorem goto_sp (a : Word) : (s.goto a).sp = s.sp := rfl
@[simp] theorem goto_stack (a : Word) : (s.goto a).stack = s.stack := rfl
@[simp] theorem goto_dt (a : Word) : (s.goto a).dt = s.dt := rfl
@[simp] theorem goto_st (a : Word) : (s.goto a).st = s.st := rfl
@[simp] theorem goto_mem (a : Word) : (s.goto a).mem = s.mem := rfl
@[simp] theorem goto_disp (a : Word) : (s.goto a).disp = s.disp := rfl
@[simp] theorem goto_key (a : Word) : (s.goto a).key = s.key := rfl
@[simp] theorem goto_mode (a : Word) : (s.goto a).mode = .running := rfl
@[simp] theorem goto_halt (a : Word) : (s.goto a).halt = s.halt := rfl
@[simp] theorem goto_events (a : Word) : (s.goto a).events = s.events := rfl
@[simp] theorem goto_rndCount (a : Word) : (s.goto a).rndCount = s.rndCount := rfl
@[simp] theorem goto_hostQueue (a : Word) : (s.goto a).hostQueue = s.hostQueue := rfl
@[simp] theorem goto_reg (a : Word) (z : Reg) : (s.goto a).reg z = s.reg z := rfl
@[simp] theorem goto_ram (a : Word) (z : Nat) : (s.goto a).ram z = s.ram z := rfl
@[simp] theorem goto_pixel (a : Word) (z : Fin 64) (z' : Fin 32) : (s.goto a).pixel z z' = s.pixel z z' := rfl
@[simp] theorem goto_keyDown (a : Word) (z : Fin 16) : (s.goto a).keyDown z = s.keyDown z := rfl

/-! `stall` -/

@[simp] theorem stall_v : s.stall.v = s.v := rfl
@[simp] theorem stall_i : s.stall.i = s.i := rfl
@[simp] theorem stall_pc : s.stall.pc = s.pc := rfl
@[simp] theorem stall_sp : s.stall.sp = s.sp := rfl
@[simp] theorem stall_stack : s.stall.stack = s.stack := rfl
@[simp] theorem stall_dt : s.stall.dt = s.dt := rfl
@[simp] theorem stall_st : s.stall.st = s.st := rfl
@[simp] theorem stall_mem : s.stall.mem = s.mem := rfl
@[simp] theorem stall_disp : s.stall.disp = s.disp := rfl
@[simp] theorem stall_key : s.stall.key = s.key := rfl
@[simp] theorem stall_mode : s.stall.mode = .waitingForKey := rfl
@[simp] theorem stall_halt : s.stall.halt = s.halt := rfl
@[simp] theorem stall_events : s.stall.events = s.events := rfl
@[simp] theorem stall_rndCount : s.stall.rndCount = s.rndCount := rfl
@[simp] theorem stall_hostQueue : s.stall.hostQueue = s.hostQueue := rfl
@[simp] theorem stall_reg (z : Reg) : s.stall.reg z = s.reg z := rfl
@[simp] theorem stall_ram (z : Nat) : s.stall.ram z = s.ram z := rfl
@[simp] theorem stall_pixel (z : Fin 64) (z' : Fin 32) : s.stall.pixel z z' = s.pixel z z' := rfl
@[simp] theorem stall_keyDown (z : Fin 16) : s.stall.keyDown z = s.keyDown z := rfl

/-! `raiseHalt` -/

@[simp] theorem raiseHalt_v (c : HaltCause) : (s.raiseHalt c).v = s.v := rfl
@[simp] theorem raiseHalt_i (c : HaltCause) : (s.raiseHalt c).i = s.i := rfl
@[simp] theorem raiseHalt_pc (c : HaltCause) : (s.raiseHalt c).pc = s.pc := rfl
@[simp] theorem raiseHalt_sp (c : HaltCause) : (s.raiseHalt c).sp = s.sp := rfl
@[simp] theorem raiseHalt_stack (c : HaltCause) : (s.raiseHalt c).stack = s.stack := rfl
@[simp] theorem raiseHalt_dt (c : HaltCause) : (s.raiseHalt c).dt = s.dt := rfl
@[simp] theorem raiseHalt_st (c : HaltCause) : (s.raiseHalt c).st = s.st := rfl
@[simp] theorem raiseHalt_mem (c : HaltCause) : (s.raiseHalt c).mem = s.mem := rfl
@[simp] theorem raiseHalt_disp (c : HaltCause) : (s.raiseHalt c).disp = s.disp := rfl
@[simp] theorem raiseHalt_key (c : HaltCause) : (s.raiseHalt c).key = s.key := rfl
@[simp] theorem raiseHalt_mode (c : HaltCause) : (s.raiseHalt c).mode = s.mode := rfl
@[simp] theorem raiseHalt_halt (c : HaltCause) : (s.raiseHalt c).halt = c := rfl
@[simp] theorem raiseHalt_events (c : HaltCause) : (s.raiseHalt c).events = s.events := rfl
@[simp] theorem raiseHalt_rndCount (c : HaltCause) : (s.raiseHalt c).rndCount = s.rndCount := rfl
@[simp] theorem raiseHalt_hostQueue (c : HaltCause) : (s.raiseHalt c).hostQueue = s.hostQueue := rfl
@[simp] theorem raiseHalt_reg (c : HaltCause) (z : Reg) : (s.raiseHalt c).reg z = s.reg z := rfl
@[simp] theorem raiseHalt_ram (c : HaltCause) (z : Nat) : (s.raiseHalt c).ram z = s.ram z := rfl
@[simp] theorem raiseHalt_pixel (c : HaltCause) (z : Fin 64) (z' : Fin 32) : (s.raiseHalt c).pixel z z' = s.pixel z z' := rfl
@[simp] theorem raiseHalt_keyDown (c : HaltCause) (z : Fin 16) : (s.raiseHalt c).keyDown z = s.keyDown z := rfl

/-! `emit` -/

@[simp] theorem emit_v (w : Word) : (s.emit w).v = s.v := rfl
@[simp] theorem emit_i (w : Word) : (s.emit w).i = s.i := rfl
@[simp] theorem emit_pc (w : Word) : (s.emit w).pc = s.pc := rfl
@[simp] theorem emit_sp (w : Word) : (s.emit w).sp = s.sp := rfl
@[simp] theorem emit_stack (w : Word) : (s.emit w).stack = s.stack := rfl
@[simp] theorem emit_dt (w : Word) : (s.emit w).dt = s.dt := rfl
@[simp] theorem emit_st (w : Word) : (s.emit w).st = s.st := rfl
@[simp] theorem emit_mem (w : Word) : (s.emit w).mem = s.mem := rfl
@[simp] theorem emit_disp (w : Word) : (s.emit w).disp = s.disp := rfl
@[simp] theorem emit_key (w : Word) : (s.emit w).key = s.key := rfl
@[simp] theorem emit_mode (w : Word) : (s.emit w).mode = s.mode := rfl
@[simp] theorem emit_halt (w : Word) : (s.emit w).halt = s.halt := rfl
@[simp] theorem emit_events (w : Word) : (s.emit w).events = s.events ++ [⟨s.pc, w⟩] := rfl
@[simp] theorem emit_rndCount (w : Word) : (s.emit w).rndCount = s.rndCount := rfl
@[simp] theorem emit_hostQueue (w : Word) : (s.emit w).hostQueue = s.hostQueue := rfl
@[simp] theorem emit_reg (w : Word) (z : Reg) : (s.emit w).reg z = s.reg z := rfl
@[simp] theorem emit_ram (w : Word) (z : Nat) : (s.emit w).ram z = s.ram z := rfl
@[simp] theorem emit_pixel (w : Word) (z : Fin 64) (z' : Fin 32) : (s.emit w).pixel z z' = s.pixel z z' := rfl
@[simp] theorem emit_keyDown (w : Word) (z : Fin 16) : (s.emit w).keyDown z = s.keyDown z := rfl

/-! `setQueue` -/

@[simp] theorem setQueue_v (q : List HostEvent) : (s.setQueue q).v = s.v := rfl
@[simp] theorem setQueue_i (q : List HostEvent) : (s.setQueue q).i = s.i := rfl
@[simp] theorem setQueue_pc (q : List HostEvent) : (s.setQueue q).pc = s.pc := rfl
@[simp] theorem setQueue_sp (q : List HostEvent) : (s.setQueue q).sp = s.sp := rfl
@[simp] theorem setQueue_stack (q : List HostEvent) : (s.setQueue q).stack = s.stack := rfl
@[simp] theorem setQueue_dt (q : List HostEvent) : (s.setQueue q).dt = s.dt := rfl
@[simp] theorem setQueue_st (q : List HostEvent) : (s.setQueue q).st = s.st := rfl
@[simp] theorem setQueue_mem (q : List HostEvent) : (s.setQueue q).mem = s.mem := rfl
@[simp] theorem setQueue_disp (q : List HostEvent) : (s.setQueue q).disp = s.disp := rfl
@[simp] theorem setQueue_key (q : List HostEvent) : (s.setQueue q).key = s.key := rfl
@[simp] theorem setQueue_mode (q : List HostEvent) : (s.setQueue q).mode = s.mode := rfl
@[simp] theorem setQueue_halt (q : List HostEvent) : (s.setQueue q).halt = s.halt := rfl
@[simp] theorem setQueue_events (q : List HostEvent) : (s.setQueue q).events = s.events := rfl
@[simp] theorem setQueue_rndCount (q : List HostEvent) : (s.setQueue q).rndCount = s.rndCount := rfl
@[simp] theorem setQueue_hostQueue (q : List HostEvent) : (s.setQueue q).hostQueue = q := rfl
@[simp] theorem setQueue_reg (q : List HostEvent) (z : Reg) : (s.setQueue q).reg z = s.reg z := rfl
@[simp] theorem setQueue_ram (q : List HostEvent) (z : Nat) : (s.setQueue q).ram z = s.ram z := rfl
@[simp] theorem setQueue_pixel (q : List HostEvent) (z : Fin 64) (z' : Fin 32) : (s.setQueue q).pixel z z' = s.pixel z z' := rfl
@[simp] theorem setQueue_keyDown (q : List HostEvent) (z : Fin 16) : (s.setQueue q).keyDown z = s.keyDown z := rfl

end Sys2Proof.Machine.State
end

