-- ==== Sys2Proof/Laws/Draw.lean ====
section
/-! SUPPORT. Drawing: `put` toggles one cell, and a sequence of puts at distinct cells toggles their set and reports
whether one of them was lit (spec R150, R153). -/

namespace Sys2Proof.Machine

theorem Display.cell_put (d : Display) (cx cy : Nat) (px : Fin 64) (py : Fin 32) :
    (d.put cx cy).1.cell px py =
      if cx % 64 = px.val ∧ cy % 32 = py.val then !d.cell px py else d.cell px py := by
  simp only [Display.put, Display.cell, Fin.getElem_fin, Vector.getElem_set]
  by_cases hy : cy % 32 = py.val
  · by_cases hx : cx % 64 = px.val
    · simp [hx, hy]
    · simp [hx, hy]
  · simp [hy]

/-- R150: `put` returns the old cell. -/
theorem Display.put_snd (d : Display) (cx cy : Nat) :
    (d.put cx cy).2 = d.cell ⟨cx % 64, by omega⟩ ⟨cy % 32, by omega⟩ := rfl

theorem Display.ext_cell {d e : Display} (h : ∀ px py, d.cell px py = e.cell px py) : d = e := by
  apply Vector.ext
  intro y hy
  apply Vector.ext
  intro x hx
  exact h ⟨x, hx⟩ ⟨y, hy⟩

@[simp] theorem Display.cell_cleared (px : Fin 64) (py : Fin 32) : Display.cleared.cell px py = false := by
  simp [Display.cleared, Display.cell]

/-- From `a` to `b` exactly the cells of `S` are toggled, and the flag is set if one of them was lit. -/
def Toggles (a b : Display × Bool) (S : Fin 64 → Fin 32 → Prop) : Prop :=
  (∀ px py, S px py → b.1.cell px py = !a.1.cell px py) ∧
  (∀ px py, ¬ S px py → b.1.cell px py = a.1.cell px py) ∧
  (b.2 = true ↔ a.2 = true ∨ ∃ px py, S px py ∧ a.1.cell px py = true)

theorem Toggles.refl (a : Display × Bool) : Toggles a a fun _ _ => False := by
  simp [Toggles]

/-- Toggling `S` and then a disjoint `T` toggles their union. -/
theorem Toggles.trans {a b c : Display × Bool} {S T U : Fin 64 → Fin 32 → Prop} (h : Toggles a b S)
    (k : Toggles b c T) (disj : ∀ px py, S px py → ¬ T px py) (hU : ∀ px py, U px py ↔ S px py ∨ T px py) :
    Toggles a c U := by
  obtain ⟨h1, h2, h3⟩ := h
  obtain ⟨k1, k2, k3⟩ := k
  refine ⟨fun px py hu => ?_, fun px py hu => ?_, ?_⟩
  · rcases (hU px py).1 hu with hs | ht
    · rw [k2 _ _ (disj _ _ hs), h1 _ _ hs]
    · rw [k1 _ _ ht, h2 _ _ fun hs => disj _ _ hs ht]
  · have hs : ¬ S px py := fun hs => hu ((hU px py).2 (.inl hs))
    have ht : ¬ T px py := fun ht => hu ((hU px py).2 (.inr ht))
    rw [k2 _ _ ht, h2 _ _ hs]
  · rw [k3, h3]
    constructor
    · rintro ((ha | ⟨px, py, hs, hl⟩) | ⟨px, py, ht, hl⟩)
      · exact .inl ha
      · exact .inr ⟨px, py, (hU _ _).2 (.inl hs), hl⟩
      · exact .inr ⟨px, py, (hU _ _).2 (.inr ht), by rw [← h2 _ _ fun hs => disj _ _ hs ht]; exact hl⟩
    · rintro (ha | ⟨px, py, hu, hl⟩)
      · exact .inl (.inl ha)
      · rcases (hU px py).1 hu with hs | ht
        · exact .inl (.inr ⟨px, py, hs, hl⟩)
        · exact .inr ⟨px, py, ht, by rw [h2 _ _ fun hs => disj _ _ hs ht]; exact hl⟩

/-- R152's inner statement: a 1 bit toggles its cell, a 0 bit touches none. -/
theorem Display.drawPixel_toggles (b : Byte) (xs cy : Nat) (acc : Display × Bool) (col : Nat) :
    Toggles acc (Display.drawPixel b xs cy acc col) fun px py =>
      b.getLsbD (7 - col) = true ∧ (xs + col) % 64 = px.val ∧ cy % 32 = py.val := by
  unfold Display.drawPixel
  by_cases hb : b.getLsbD (7 - col) = true
  · rw [if_pos hb]
    refine ⟨fun px py h => ?_, fun px py h => ?_, ?_⟩
    · simp [Display.cell_put, h.2.1, h.2.2]
    · have : ¬ ((xs + col) % 64 = px.val ∧ cy % 32 = py.val) := fun hc => h ⟨hb, hc⟩
      simp [Display.cell_put, this]
    · simp only [Bool.or_eq_true, Display.put_snd]
      constructor
      · rintro (h | h)
        · exact .inl h
        · exact .inr ⟨_, _, ⟨hb, rfl, rfl⟩, h⟩
      · rintro (h | ⟨px, py, ⟨-, hx, hy⟩, h⟩)
        · exact .inl h
        · right
          rw [← h]
          congr 1 <;> exact Fin.ext (by assumption)
  · rw [if_neg hb]
    refine ⟨fun px py h => absurd h.1 hb, fun _ _ _ => rfl, ?_⟩
    constructor
    · exact .inl
    · rintro (h | ⟨px, py, h, -⟩)
      · exact h
      · exact absurd h.1 hb

/-- The first `c` bits of one sprite row. -/
theorem Display.foldl_drawPixel_toggles (b : Byte) (xs cy : Nat) (acc : Display × Bool) (c : Nat) (hc : c ≤ 8) :
    Toggles acc ((List.range c).foldl (Display.drawPixel b xs cy) acc) fun px py =>
      ∃ col, col < c ∧ b.getLsbD (7 - col) = true ∧ (xs + col) % 64 = px.val ∧ cy % 32 = py.val := by
  induction c with
  | zero => simpa using Toggles.refl acc
  | succ c ih =>
    rw [List.range_succ, List.foldl_append]
    refine (ih (by omega)).trans (Display.drawPixel_toggles b xs cy _ c) ?_ ?_
    · rintro px py ⟨col, hlt, -, hx, -⟩ ⟨-, hx', -⟩
      omega
    · intro px py
      constructor
      · rintro ⟨col, hlt, h⟩
        rcases Nat.lt_succ_iff_lt_or_eq.1 hlt with h' | rfl
        · exact .inl ⟨col, h', h⟩
        · exact .inr h
      · rintro (⟨col, hlt, h⟩ | h)
        · exact ⟨col, by omega, h⟩
        · exact ⟨c, by omega, h⟩

/-- R153: a sprite of `n` rows toggles the cells under its 1 bits, each at most once. -/
theorem Display.drawSprite_toggles (d : Display) (rows : Nat → Byte) (xs ys n : Nat) (hn : n ≤ 32) :
    Toggles (d, false) (d.drawSprite rows xs ys n) fun px py =>
      ∃ row col, row < n ∧ col < 8 ∧ (rows row).getLsbD (7 - col) = true ∧
        (xs + col) % 64 = px.val ∧ (ys + row) % 32 = py.val := by
  unfold Display.drawSprite
  induction n with
  | zero => simpa using Toggles.refl (d, false)
  | succ n ih =>
    rw [List.range_succ, List.foldl_append]
    refine (ih (by omega)).trans (Display.foldl_drawPixel_toggles (rows n) xs (ys + n) _ 8 (Nat.le_refl 8)) ?_ ?_
    · rintro px py ⟨row, col, hlt, -, -, -, hy⟩ ⟨-, -, -, -, hy'⟩
      omega
    · intro px py
      constructor
      · rintro ⟨row, col, hlt, h⟩
        rcases Nat.lt_succ_iff_lt_or_eq.1 hlt with h' | rfl
        · exact .inl ⟨row, col, h', h⟩
        · exact .inr ⟨col, h⟩
      · rintro (⟨row, col, hlt, h⟩ | ⟨col, h⟩)
        · exact ⟨row, col, by omega, h⟩
        · exact ⟨n, col, by omega, h⟩

end Sys2Proof.Machine
end

