-- ==== Sys2Proof/Laws/Memory.lean ====
section
/-! SUPPORT. RAM: a read after a write, the canonical form kept by every operation, and equal reads make equal data. -/

namespace Sys2Proof.Machine

open Memory

/-! ## Reading -/

@[simp] theorem Memory.read_nil (a : Nat) : Memory.read [] a = unlisted a := rfl

@[simp] theorem Memory.read_cons (k : Nat) (b : Byte) (m : Memory) (a : Nat) :
    Memory.read ((k, b) :: m) a = if a = k then b else m.read a := rfl

/-- Below its least listed address a memory reads as unlisted. -/
theorem Memory.read_of_lt {m : Memory} {lo a : Nat} (hm : wfFrom lo m = true) (ha : a < lo) :
    m.read a = unlisted a := by
  induction m generalizing lo with
  | nil => rfl
  | cons c m ih =>
    obtain ⟨k, b⟩ := c
    simp only [wfFrom, Bool.and_eq_true, decide_eq_true_eq] at hm
    have hne : a ≠ k := by omega
    simp only [read_cons, if_neg hne]
    exact ih hm.2 (by omega)

theorem Memory.read_consCell {m : Memory} {k : Nat} (b : Byte) (hm : wfFrom (k + 1) m = true) (a : Nat) :
    (consCell k b m).read a = if a = k then b else m.read a := by
  unfold consCell
  split
  · rename_i hb
    split
    · subst a
      rw [read_of_lt hm (by omega), hb]
    · rfl
  · rfl

/-- `MemWrite` then `MemRead`: the byte written at its address, every other byte as before. -/
theorem Memory.read_write {m : Memory} {lo : Nat} (hm : wfFrom lo m = true) (k : Nat) (b : Byte) (a : Nat) :
    (m.write k b).read a = if a = k then b else m.read a := by
  induction m generalizing lo with
  | nil => exact read_consCell b rfl a
  | cons c m ih =>
    obtain ⟨j, c⟩ := c
    simp only [wfFrom, Bool.and_eq_true, decide_eq_true_eq] at hm
    unfold write
    split
    · exact read_consCell b (by simp [wfFrom, hm]; omega) a
    · split
      · subst k
        rw [read_consCell b hm.2, read_cons]
        split <;> simp_all
      · simp only [read_cons, ih hm.2]
        split
        · rw [if_neg (by omega)]
        · rfl

/-! ## The canonical form -/

theorem Memory.wfFrom_mono {m : Memory} {lo lo' : Nat} (hm : wfFrom lo m = true) (h : lo' ≤ lo) :
    wfFrom lo' m = true := by
  cases m with
  | nil => rfl
  | cons c m =>
    simp only [wfFrom, Bool.and_eq_true, decide_eq_true_eq] at hm ⊢
    exact ⟨⟨⟨by omega, hm.1.1.2⟩, hm.1.2⟩, hm.2⟩

theorem Memory.consCell_wfFrom {m : Memory} {k : Nat} (b : Byte) (hm : wfFrom (k + 1) m = true) (hk : k < 4096) :
    wfFrom k (consCell k b m) = true := by
  unfold consCell
  split
  · exact wfFrom_mono hm (by omega)
  · rename_i hb
    simp [wfFrom, hm, hb, Config.ramSize, hk]

theorem Memory.write_wfFrom {m : Memory} {lo : Nat} (hm : wfFrom lo m = true) {k : Nat} (b : Byte) (hk : k < 4096)
    (hlo : lo ≤ k) : wfFrom lo (m.write k b) = true := by
  induction m generalizing lo with
  | nil => exact wfFrom_mono (consCell_wfFrom b rfl hk) hlo
  | cons c m ih =>
    obtain ⟨j, c⟩ := c
    have hc := hm
    simp only [wfFrom, Bool.and_eq_true, decide_eq_true_eq] at hm
    unfold write
    split
    · refine wfFrom_mono (consCell_wfFrom b ?_ hk) hlo
      simp only [wfFrom, Bool.and_eq_true, decide_eq_true_eq]
      exact ⟨⟨⟨by omega, hm.1.1.2⟩, hm.1.2⟩, hm.2⟩
    · split
      · subst k
        exact wfFrom_mono (consCell_wfFrom b hm.2 hk) hlo
      · simp only [wfFrom, Bool.and_eq_true, decide_eq_true_eq]
        exact ⟨hm.1, ih hm.2 (by omega)⟩

/-- A write inside RAM keeps the canonical form. -/
theorem Memory.write_wf {m : Memory} (hm : m.wf = true) {k : Nat} (b : Byte) (hk : k < 4096) :
    (m.write k b).wf = true := write_wfFrom hm b hk (Nat.zero_le _)

theorem ea_lt (i : Word) (k : Nat) : (ea i k).toNat < 4096 := (ea i k).isLt

/-- The stores of one instruction keep the canonical form. -/
theorem Memory.storeFrom_wf (i : Word) (bs : List Byte) {m : Memory} (k : Nat) (hm : m.wf = true) :
    (m.storeFrom i k bs).wf = true := by
  induction bs generalizing m k with
  | nil => exact hm
  | cons b bs ih => exact ih _ (write_wf hm b (ea_lt i k))

/-- A ROM image inside RAM is canonical. -/
theorem Memory.image_wfFrom (bs : List Byte) (a : Nat) (h : a + bs.length ≤ 4096) :
    wfFrom a (image a bs) = true := by
  induction bs generalizing a with
  | nil => rfl
  | cons b bs ih =>
    simp only [List.length_cons] at h
    exact consCell_wfFrom b (ih (a + 1) (by omega)) (by omega)

theorem Memory.image_wf (bs : List Byte) (h : bs.length ≤ 3584) : (image 0x200 bs).wf = true :=
  wfFrom_mono (image_wfFrom bs 0x200 (by omega)) (Nat.zero_le _)

theorem State.reset_mem_wf : State.reset.mem.wf = true := rfl

/-! ## Addresses of one instruction -/

/-- R58: the addresses `ea(0)`, `ea(1)`, ... of one instruction are distinct. -/
theorem ea_inj {i : Word} {j k : Nat} (hj : j < 4096) (hk : k < 4096) (h : (ea i j).toNat = (ea i k).toNat) :
    j = k := by
  simp only [ea, BitVec.toNat_ofNat] at h
  omega

/-- What one byte reads as after the stores of one instruction: the byte stored there, or what it was. -/
theorem Memory.read_storeFrom (i : Word) (bs : List Byte) {m : Memory} (k : Nat) (hm : m.wf = true)
    (hk : k + bs.length ≤ 4096) :
    (∀ j (h : j < bs.length), (m.storeFrom i k bs).read (ea i (k + j)).toNat = bs[j]) ∧
    ∀ a, (∀ j, j < bs.length → a ≠ (ea i (k + j)).toNat) → (m.storeFrom i k bs).read a = m.read a := by
  induction bs generalizing m k with
  | nil => exact ⟨fun j h => absurd h (Nat.not_lt_zero j), fun a _ => rfl⟩
  | cons b bs ih =>
    simp only [List.length_cons] at hk
    obtain ⟨hin, hout⟩ := ih (m := m.write (ea i k).toNat b) (k + 1) (write_wf hm b (ea_lt i k)) (by omega)
    constructor
    · intro j h
      cases j with
      | zero =>
        show Memory.read (storeFrom _ i (k + 1) bs) _ = b
        rw [hout _ fun j hj he => by
          have := ea_inj (by omega) (by omega) he
          omega, read_write hm]
        simp
      | succ j =>
        have h' : j < bs.length := by simpa using h
        have := hin j h'
        rw [show k + 1 + j = k + (j + 1) by omega] at this
        exact this
    · intro a ha
      show Memory.read (storeFrom _ i (k + 1) bs) _ = _
      rw [hout a fun j hj => by
        rw [show k + 1 + j = k + (j + 1) by omega]
        exact ha (j + 1) (by simp; omega), read_write hm]
      rw [if_neg (by simpa using ha 0 (by simp))]

/-- What RAM reads as after a ROM image was placed at `a`. -/
theorem Memory.read_image (bs : List Byte) (a : Nat) (h : a + bs.length ≤ 4096) (c : Nat) :
    (image a bs).read c = if hc : a ≤ c ∧ c < a + bs.length then bs[c - a] else unlisted c := by
  induction bs generalizing a with
  | nil =>
    rw [dif_neg (by simp)]
    rfl
  | cons b bs ih =>
    simp only [List.length_cons] at h
    show (consCell a b (image (a + 1) bs)).read c = _
    rw [read_consCell b (image_wfFrom bs (a + 1) (by omega)), ih (a + 1) (by omega)]
    by_cases h1 : c = a
    · subst h1
      simp
    · rw [if_neg h1]
      by_cases h2 : a + 1 ≤ c ∧ c < a + 1 + bs.length
      · rw [dif_pos h2, dif_pos (by simp; omega)]
        rw [List.getElem_cons, dif_neg (by omega)]
        congr 1
      · rw [dif_neg h2, dif_neg (by simp; omega)]

/-! ## Equal reads, equal data -/

theorem Memory.ext_of_read {m n : Memory} {lo : Nat} (hm : wfFrom lo m = true) (hn : wfFrom lo n = true)
    (h : ∀ a, m.read a = n.read a) : m = n := by
  induction m generalizing n lo with
  | nil =>
    cases n with
    | nil => rfl
    | cons c n =>
      obtain ⟨k, b⟩ := c
      simp only [wfFrom, Bool.and_eq_true, decide_eq_true_eq] at hn
      exact absurd (by simpa using (h k).symm) hn.1.2
  | cons c m ih =>
    obtain ⟨k, b⟩ := c
    cases n with
    | nil =>
      simp only [wfFrom, Bool.and_eq_true, decide_eq_true_eq] at hm
      exact absurd (by simpa using h k) hm.1.2
    | cons d n =>
      obtain ⟨j, c⟩ := d
      have hm' := hm
      have hn' := hn
      simp only [wfFrom, Bool.and_eq_true, decide_eq_true_eq] at hm hn
      have hkj : k = j := by
        rcases Nat.lt_trichotomy k j with hlt | heq | hgt
        · have hk := h k
          rw [read_cons, if_pos rfl, read_cons, if_neg (by omega), read_of_lt hn.2 (by omega)] at hk
          exact absurd hk hm.1.2
        · exact heq
        · have hj := h j
          rw [read_cons, if_neg (by omega), read_cons, if_pos rfl, read_of_lt hm.2 (by omega)] at hj
          exact absurd hj.symm hn.1.2
      subst hkj
      have hbc : b = c := by simpa using h k
      subst hbc
      congr 1
      refine ih hm.2 hn.2 fun a => ?_
      by_cases ha : a = k
      · subst ha
        rw [read_of_lt hm.2 (by omega), read_of_lt hn.2 (by omega)]
      · simpa [ha] using h a

/-- Two memories in canonical form that read the same everywhere are equal. -/
theorem Memory.eq_of_read {m n : Memory} (hm : m.wf = true) (hn : n.wf = true) (h : ∀ a, m.read a = n.read a) :
    m = n := ext_of_read hm hn h

end Sys2Proof.Machine
end

