-- ==== Sys2Proof/Laws/PerInstr.lean ====
section
/-! SUPPORT. Statements made for each instruction by itself. `EncodesItsRow`: the word of an instruction matches the row
of the opcode map (spec R74) that the instruction stands for. -/

namespace Sys2Proof.Laws.EncodesItsRow

/-- The instruction is `unimpl`, or its encoding matches its own row. -/
def Statement (i : Instr) : Prop :=
  i.mnemonic = "UNIMPL" ∨ ∃ r ∈ opcodeRows, r.mnemonic = i.mnemonic ∧ r.accepts (encode i) = true

/-! Each format's word against a row of that format's mask. -/

theorem nnn_row {m : String} {op : Nat} {p : Word} (h : op < 16) (hp : p.toNat = op * 4096) (nnn : Addr) :
    (OpcodeRow.mk m 0xF000 p).accepts (encodeNNN op nnn) = true := by
  have := nnn.isLt
  rw [accepts_iff_op, encodeNNN_toNat op nnn h]
  omega

theorem xkk_row {m : String} {op : Nat} {p : Word} (h : op < 16) (hp : p.toNat = op * 4096) (x : Reg) (kk : Byte) :
    (OpcodeRow.mk m 0xF000 p).accepts (encodeXKK op x kk) = true := by
  have := kk.isLt
  rw [accepts_iff_op, encodeXKK_toNat op x kk h]
  omega

theorem xyn_row {m : String} {op : Nat} {p : Word} (h : op < 16) (hp : p.toNat = op * 4096) (x y : Reg)
    (n : Fin 16) : (OpcodeRow.mk m 0xF000 p).accepts (encodeXYN op x y n) = true := by
  rw [accepts_iff_op, encodeXYN_toNat op x y n h]
  omega

theorem xyf_row {m : String} {op : Nat} {n : Fin 16} {p : Word} (h : op < 16) (hp : p.toNat = op * 4096 + n.val)
    (x y : Reg) : (OpcodeRow.mk m 0xF00F p).accepts (encodeXYN op x y n) = true := by
  rw [accepts_iff_op_n, encodeXYN_toNat op x y n h]
  omega

theorem xff_row {m : String} {op : Nat} {kk : Byte} {p : Word} (h : op < 16) (hp : p.toNat = op * 4096 + kk.toNat)
    (x : Reg) : (OpcodeRow.mk m 0xF0FF p).accepts (encodeXKK op x kk) = true := by
  have := kk.isLt
  rw [accepts_iff_op_kk, encodeXKK_toNat op x kk h]
  omega

/-! One lemma for each instruction. -/

theorem cls : Statement .cls := .inr ⟨⟨"CLS", 0xFFFF, 0x00E0⟩, by decide, rfl, by decide⟩
theorem ret : Statement .ret := .inr ⟨⟨"RET", 0xFFFF, 0x00EE⟩, by decide, rfl, by decide⟩
theorem jp (nnn : Addr) : Statement (.jp nnn) :=
  .inr ⟨⟨"JP_nnn", 0xF000, 0x1000⟩, by decide, rfl, nnn_row (by decide) (by decide) nnn⟩
theorem call (nnn : Addr) : Statement (.call nnn) :=
  .inr ⟨⟨"CALL_nnn", 0xF000, 0x2000⟩, by decide, rfl, nnn_row (by decide) (by decide) nnn⟩
theorem seImm (x : Reg) (kk : Byte) : Statement (.seImm x kk) :=
  .inr ⟨⟨"SE_Vx__kk", 0xF000, 0x3000⟩, by decide, rfl, xkk_row (by decide) (by decide) x kk⟩
theorem sneImm (x : Reg) (kk : Byte) : Statement (.sneImm x kk) :=
  .inr ⟨⟨"SNE_Vx__kk", 0xF000, 0x4000⟩, by decide, rfl, xkk_row (by decide) (by decide) x kk⟩
theorem seReg (x : Reg) (y : Reg) : Statement (.seReg x y) :=
  .inr ⟨⟨"SE_Vx__Vy", 0xF00F, 0x5000⟩, by decide, rfl, xyf_row (by decide) (by decide) x y⟩
theorem sneReg (x : Reg) (y : Reg) : Statement (.sneReg x y) :=
  .inr ⟨⟨"SNE_Vx__Vy", 0xF00F, 0x9000⟩, by decide, rfl, xyf_row (by decide) (by decide) x y⟩
theorem ldImm (x : Reg) (kk : Byte) : Statement (.ldImm x kk) :=
  .inr ⟨⟨"LD_Vx__kk", 0xF000, 0x6000⟩, by decide, rfl, xkk_row (by decide) (by decide) x kk⟩
theorem addImm (x : Reg) (kk : Byte) : Statement (.addImm x kk) :=
  .inr ⟨⟨"ADD_Vx__kk", 0xF000, 0x7000⟩, by decide, rfl, xkk_row (by decide) (by decide) x kk⟩
theorem ldReg (x : Reg) (y : Reg) : Statement (.ldReg x y) :=
  .inr ⟨⟨"LD_Vx__Vy", 0xF00F, 0x8000⟩, by decide, rfl, xyf_row (by decide) (by decide) x y⟩
theorem orReg (x : Reg) (y : Reg) : Statement (.orReg x y) :=
  .inr ⟨⟨"OR_Vx__Vy", 0xF00F, 0x8001⟩, by decide, rfl, xyf_row (by decide) (by decide) x y⟩
theorem andReg (x : Reg) (y : Reg) : Statement (.andReg x y) :=
  .inr ⟨⟨"AND_Vx__Vy", 0xF00F, 0x8002⟩, by decide, rfl, xyf_row (by decide) (by decide) x y⟩
theorem xorReg (x : Reg) (y : Reg) : Statement (.xorReg x y) :=
  .inr ⟨⟨"XOR_Vx__Vy", 0xF00F, 0x8003⟩, by decide, rfl, xyf_row (by decide) (by decide) x y⟩
theorem addReg (x : Reg) (y : Reg) : Statement (.addReg x y) :=
  .inr ⟨⟨"ADD_Vx__Vy", 0xF00F, 0x8004⟩, by decide, rfl, xyf_row (by decide) (by decide) x y⟩
theorem sub (x : Reg) (y : Reg) : Statement (.sub x y) :=
  .inr ⟨⟨"SUB_Vx__Vy", 0xF00F, 0x8005⟩, by decide, rfl, xyf_row (by decide) (by decide) x y⟩
theorem shr (x : Reg) (y : Reg) : Statement (.shr x y) :=
  .inr ⟨⟨"SHR_Vx__Vy", 0xF00F, 0x8006⟩, by decide, rfl, xyf_row (by decide) (by decide) x y⟩
theorem subn (x : Reg) (y : Reg) : Statement (.subn x y) :=
  .inr ⟨⟨"SUBN_Vx__Vy", 0xF00F, 0x8007⟩, by decide, rfl, xyf_row (by decide) (by decide) x y⟩
theorem shl (x : Reg) (y : Reg) : Statement (.shl x y) :=
  .inr ⟨⟨"SHL_Vx__Vy", 0xF00F, 0x800E⟩, by decide, rfl, xyf_row (by decide) (by decide) x y⟩
theorem ldI (nnn : Addr) : Statement (.ldI nnn) :=
  .inr ⟨⟨"LD_I__nnn", 0xF000, 0xA000⟩, by decide, rfl, nnn_row (by decide) (by decide) nnn⟩
theorem jpV0 (nnn : Addr) : Statement (.jpV0 nnn) :=
  .inr ⟨⟨"JP_V0__nnn", 0xF000, 0xB000⟩, by decide, rfl, nnn_row (by decide) (by decide) nnn⟩
theorem rnd (x : Reg) (kk : Byte) : Statement (.rnd x kk) :=
  .inr ⟨⟨"RND_Vx__kk", 0xF000, 0xC000⟩, by decide, rfl, xkk_row (by decide) (by decide) x kk⟩
theorem drw (x : Reg) (y : Reg) (n : Fin 16) : Statement (.drw x y n) :=
  .inr ⟨⟨"DRW_Vx__Vy__n", 0xF000, 0xD000⟩, by decide, rfl, xyn_row (by decide) (by decide) x y n⟩
theorem skp (x : Reg) : Statement (.skp x) :=
  .inr ⟨⟨"SKP_Vx", 0xF0FF, 0xE09E⟩, by decide, rfl, xff_row (by decide) (by decide) x⟩
theorem sknp (x : Reg) : Statement (.sknp x) :=
  .inr ⟨⟨"SKNP_Vx", 0xF0FF, 0xE0A1⟩, by decide, rfl, xff_row (by decide) (by decide) x⟩
theorem ldVxDt (x : Reg) : Statement (.ldVxDt x) :=
  .inr ⟨⟨"LD_Vx__DT", 0xF0FF, 0xF007⟩, by decide, rfl, xff_row (by decide) (by decide) x⟩
theorem ldDtVx (x : Reg) : Statement (.ldDtVx x) :=
  .inr ⟨⟨"LD_DT__Vx", 0xF0FF, 0xF015⟩, by decide, rfl, xff_row (by decide) (by decide) x⟩
theorem ldStVx (x : Reg) : Statement (.ldStVx x) :=
  .inr ⟨⟨"LD_ST__Vx", 0xF0FF, 0xF018⟩, by decide, rfl, xff_row (by decide) (by decide) x⟩
theorem addI (x : Reg) : Statement (.addI x) :=
  .inr ⟨⟨"ADD_I__Vx", 0xF0FF, 0xF01E⟩, by decide, rfl, xff_row (by decide) (by decide) x⟩
theorem ldF (x : Reg) : Statement (.ldF x) :=
  .inr ⟨⟨"LD_F__Vx", 0xF0FF, 0xF029⟩, by decide, rfl, xff_row (by decide) (by decide) x⟩
theorem ldB (x : Reg) : Statement (.ldB x) :=
  .inr ⟨⟨"LD_B__Vx", 0xF0FF, 0xF033⟩, by decide, rfl, xff_row (by decide) (by decide) x⟩
theorem storeRegs (x : Reg) : Statement (.storeRegs x) :=
  .inr ⟨⟨"LD__I___Vx", 0xF0FF, 0xF055⟩, by decide, rfl, xff_row (by decide) (by decide) x⟩
theorem loadRegs (x : Reg) : Statement (.loadRegs x) :=
  .inr ⟨⟨"LD_Vx___I", 0xF0FF, 0xF065⟩, by decide, rfl, xff_row (by decide) (by decide) x⟩
theorem ldVxK (x : Reg) : Statement (.ldVxK x) :=
  .inr ⟨⟨"LD_Vx__K", 0xF0FF, 0xF00A⟩, by decide, rfl, xff_row (by decide) (by decide) x⟩
theorem unimpl (w : Word) : Statement (.unimpl w) := .inl rfl

end Sys2Proof.Laws.EncodesItsRow
end

