-- ==== Sys2Proof/Laws/Registers.lean ====
section
/-! SUPPORT. What each shared operation on registers, stack, keypad and fetch does, said once. -/

namespace Sys2Proof.Machine

@[simp] theorem State.reg_setReg (s : State) (x y : Reg) (b : Byte) :
    (s.setReg x b).reg y = if y = x then b else s.reg y := by
  simp only [State.reg, State.setReg, Fin.getElem_fin, Vector.getElem_set, Fin.ext_iff, eq_comm]

@[simp] theorem State.reg_setRegs (s : State) (f : Reg → Byte) (y : Reg) : (s.setRegs f).reg y = f y := by
  simp [State.reg, State.setRegs]

@[simp] theorem State.keyDown_setKey (s : State) (k j : Fin 16) (p : Bool) :
    (s.setKey k p).keyDown j = if j = k then p else s.keyDown j := by
  simp only [State.keyDown, State.setKey, Fin.getElem_fin, Vector.getElem_set, Fin.ext_iff, eq_comm]

@[simp] theorem State.pixel_setDisp (s : State) (d : Display) (px : Fin 64) (py : Fin 32) :
    (s.setDisp d).pixel px py = d.cell px py := rfl

@[simp] theorem State.ram_setMem (s : State) (m : Memory) (a : Nat) : (s.setMem m).ram a = m.read a := rfl

/-- R102: a push with room; everything it does. -/
theorem State.push?_of_lt {s : State} (h : s.sp.val < 16) (a : Word) :
    s.push? a = some { s with stack := s.stack.set s.sp.val a, sp := ⟨s.sp.val + 1, by omega⟩ } := dif_pos h

/-- R174: no room. -/
theorem State.push?_of_full {s : State} (h : s.sp.val = 16) (a : Word) : s.push? a = none := dif_neg (by omega)

/-- R100: a pop of an entry; everything it does. -/
theorem State.pop?_of_pos {s : State} (h : s.sp.val ≠ 0) :
    s.pop? = some (s.stack[s.sp.val - 1], { s with sp := ⟨s.sp.val - 1, by omega⟩ }) := dif_neg h

/-- R173: no entry. -/
theorem State.pop?_of_empty {s : State} (h : s.sp.val = 0) : s.pop? = none := dif_pos h

/-- R162: the lowest key is down and no lower one is. -/
theorem State.lowestKey_eq_some {s : State} {k : Fin 16} :
    s.lowestKey = some k ↔ s.keyDown k = true ∧ ∀ j, j < k → s.keyDown j = false := by
  unfold State.lowestKey
  rw [List.find?_eq_some_iff_getElem]
  constructor
  · rintro ⟨hk, n, hn, hget, hlt⟩
    simp only [List.getElem_finRange, List.length_finRange] at hget hlt hn
    subst hget
    refine ⟨by simpa using hk, fun j hj => ?_⟩
    have := hlt j.val (by simpa [Fin.lt_def] using hj)
    simpa using this
  · rintro ⟨hk, hlt⟩
    refine ⟨hk, k.val, by simp, by simp, fun j hj => ?_⟩
    have := hlt ⟨j, by omega⟩ (by simpa [Fin.lt_def] using hj)
    simpa using this

/-- R162: no key is down. -/
theorem State.lowestKey_eq_none {s : State} : s.lowestKey = none ↔ ∀ k, s.keyDown k = false := by
  simp [State.lowestKey]

/-- `word(b0, b1) = b0 * 256 + b1` (R9). -/
theorem word_eq (b0 b1 : Byte) : word b0 b1 = BitVec.ofNat 16 (b0.toNat * 256 + b1.toNat) := by
  apply BitVec.eq_of_toNat_eq
  simp only [word, BitVec.toNat_append, BitVec.toNat_ofNat]
  rw [← Nat.shiftLeft_add_eq_or_of_lt b1.isLt, Nat.shiftLeft_eq]
  omega

/-- R52: a fetch inside RAM. -/
theorem State.fetch?_of_lt {s : State} (h : s.pc.toNat < 4095) :
    s.fetch? = some (word (s.ram s.pc.toNat) (s.ram (s.pc.toNat + 1))) := if_pos h

/-- R52: a fetch past 0xFFE. -/
theorem State.fetch?_of_ge {s : State} (h : 4095 ≤ s.pc.toNat) : s.fetch? = none := if_neg (by omega)

/-- R144: the `k`-th latched register. -/
theorem State.regsUpTo_length (s : State) (x : Reg) : (s.regsUpTo x).length = x.val + 1 := by
  simp [State.regsUpTo]

theorem State.regsUpTo_getElem (s : State) (x : Reg) (k : Nat) (h : k < (s.regsUpTo x).length) :
    (s.regsUpTo x)[k] = s.reg ⟨k, by rw [State.regsUpTo_length] at h; omega⟩ := by
  simp [State.regsUpTo, State.reg]

@[simp] theorem bcdDigits_length (a : Byte) : (bcdDigits a).length = 3 := rfl

theorem flagByte_eq (c : Bool) : flagByte c = if c then 1 else 0 := rfl

end Sys2Proof.Machine
end

