-- ==== Sys2Proof/Laws/Step.lean ====
section
/-! SUPPORT. What a cycle and a step can do, said once; and the cases of the three meanings that look at more than their
operands. -/

namespace Sys2Proof.Machine

/-- With nothing waiting, a step is a cycle. -/
theorem step_of_empty {s : State} (h : s.hostQueue = []) : step s = cycle s := by
  simp [step, nextEvent, h, hostEvent]

/-- With an event waiting, a step is the reaction to it. -/
theorem step_of_event {s : State} {e : HostEvent} {q : List HostEvent} (h : s.hostQueue = e :: q) :
    step s = hostEvent e (s.setQueue q) := by
  simp [step, nextEvent, h]

/-- Everything a cycle can do (R91, R178): nothing when halted, the fetch fault, or the decoded instruction. -/
theorem cycle_cases {s t : State} (h : cycle s = .next t) :
    (s.halt ≠ .none ∧ t = s) ∨
    (s.halt = .none ∧ 4095 ≤ s.pc.toNat ∧ t = s.raiseHalt .fetchRange) ∨
    (s.halt = .none ∧ s.pc.toNat < 4095 ∧
      exec (decodeWord (word (s.ram s.pc.toNat) (s.ram (s.pc.toNat + 1)))) s = .next t) := by
  unfold cycle at h
  split at h
  · rename_i hh
    by_cases hp : s.pc.toNat < 4095
    · rw [State.fetch?_of_lt hp] at h
      exact .inr (.inr ⟨hh, hp, h⟩)
    · rw [State.fetch?_of_ge (by omega)] at h
      cases h
      exact .inr (.inl ⟨hh, by omega, rfl⟩)
  · rename_i hh
    cases h
    exact .inl ⟨hh, rfl⟩

/-- Everything a step can do: one of the host's four events. -/
theorem step_cases {s t : State} (h : step s = .next t) :
    (∃ rom q, s.hostQueue = .reset rom :: q ∧ t = resetWith rom (s.setQueue q)) ∨
    (∃ q, s.hostQueue = .tick :: q ∧ t = tick (s.setQueue q)) ∨
    (∃ k p q, s.hostQueue = .keySet k p :: q ∧ t = keySet k p (s.setQueue q)) ∨
    (s.hostQueue = [] ∧ cycle s = .next t) ∨
    (∃ q, s.hostQueue = .cycle :: q ∧ cycle (s.setQueue q) = .next t) := by
  cases hq : s.hostQueue with
  | nil =>
    rw [step_of_empty hq] at h
    exact .inr (.inr (.inr (.inl ⟨rfl, h⟩)))
  | cons e q =>
    rw [step_of_event hq] at h
    cases e with
    | reset rom => cases h; exact .inl ⟨rom, q, rfl, rfl⟩
    | tick => cases h; exact .inr (.inl ⟨q, rfl, rfl⟩)
    | keySet k p => cases h; exact .inr (.inr (.inl ⟨k, p, q, rfl, rfl⟩))
    | cycle => exact .inr (.inr (.inr (.inr ⟨q, rfl, h⟩)))

/-- R100, R173: the two cases of a return. -/
theorem execRet_of_empty {s : State} (h : s.sp.val = 0) : execRet s = .next (s.raiseHalt .stackUnderflow) := by
  rw [execRet, State.pop?_of_empty h]

theorem execRet_of_pos {s : State} (h : s.sp.val ≠ 0) :
    execRet s = .next
      { s with sp := ⟨s.sp.val - 1, by omega⟩, pc := s.stack[s.sp.val - 1], mode := .running } := by
  rw [execRet, State.pop?_of_pos h]
  rfl

/-- R102, R174: the two cases of a call. -/
theorem execCall_of_full {s : State} (nnn : Addr) (h : s.sp.val = 16) :
    execCall nnn s = .next (s.raiseHalt .stackOverflow) := by
  rw [execCall, State.push?_of_full h]

theorem execCall_of_lt {s : State} (nnn : Addr) (h : s.sp.val < 16) :
    execCall nnn s = .next
      { s with
        stack := s.stack.set s.sp.val (s.pc + 2), sp := ⟨s.sp.val + 1, by omega⟩, pc := nnnValue nnn,
        mode := .running } := by
  rw [execCall, State.push?_of_lt h]
  rfl

/-- R162: the two cases of the key wait. -/
theorem execLdVxK_of_some {s : State} (x : Reg) {k : Fin 16} (h : s.lowestKey = some k) :
    execLdVxK x s = .next (s.setReg x (BitVec.ofNat 8 k.val)).advance := by
  rw [execLdVxK, h]

theorem execLdVxK_of_none {s : State} (x : Reg) (h : s.lowestKey = none) : execLdVxK x s = .next s.stall := by
  rw [execLdVxK, h]

/-- R94: one down-count. -/
theorem countDown_toNat (b : Byte) : (countDown b).toNat = b.toNat - 1 := by
  unfold countDown
  split
  · rename_i h
    subst h
    rfl
  · rename_i h
    have hb := b.isLt
    have : b.toNat ≠ 0 := fun hz => h (BitVec.eq_of_toNat_eq hz)
    simp [BitVec.toNat_sub]
    omega

end Sys2Proof.Machine
end

