-- ==== Sys2Proof/Tests/Slice0.lean ====
section
/-! SUPPORT. Tests of the model. Expected results are the vectors of spec 95_test_vectors (their id stands in each
docstring: S, F, Q, A, M, W, K, P) and words written out bit by bit from the patterns of 30_encoding R74. A vector that
depends on a quirk is tested for both values of it, one that draws a random byte for the byte it names. The last section
shows, for every obligation with hypotheses, a state and operands that meet them. -/

namespace Sys2Proof.Tests
open Sys2Proof.Machine

/-! ## Helpers -/

/-- A look at the next state, if there is one. -/
def seen {α : Type} (r : Result) (look : State → α) : Option α :=
  match r with
  | .next t => some (look t)
  | .fault _ => none
  | .refused _ => none

/-- What the decoded word makes of `s`. -/
def after {α : Type} (w : Word) (s : State) (look : State → α) : Option α := seen (exec (decodeWord w) s) look

/-- The reset state with register `x` holding `a` and register `y` holding `b`. -/
def two (x : Reg) (a : Byte) (y : Reg) (b : Byte) : State := (State.reset.setReg x a).setReg y b

/-- RAM with one byte changed. -/
def poke (s : State) (a : Nat) (b : Byte) : State := s.setMem (s.mem.write a b)

/-- The reset state with key `k` down. -/
def held (k : Fin 16) : State := State.reset.setKey k true

/-- The reset state with one cell lit. -/
def lit (px : Fin 64) (py : Fin 32) : State :=
  State.reset.setDisp (Display.put .cleared px.val py.val).1

/-- The reset state with host events waiting. -/
def queued (q : List HostEvent) : State := State.reset.setQueue q

/-! ## Well-formedness: the one check -/

/-- R76: a word that matches a row is no `UNIMPL`. -/
theorem test_wf_refuses_unimpl_of_ld : (Instr.unimpl 0x6005).wf = false := by decide
theorem test_wf_refuses_unimpl_of_cls : (Instr.unimpl 0x00E0).wf = false := by decide
/-- R76: `5xyn` with `n` not 0. -/
theorem test_wf_allows_unimpl : (Instr.unimpl 0x5121).wf = true ∧ (Instr.shl 15 0).wf = true := by decide

/-! ## Decoding: words from R74, every constructor -/

theorem test_decode_display :
    decodeWord 0b0000000011100000 = .cls ∧ decodeWord 0b1101101011000111 = .drw 0xA 0xC 0x7 := by decide

theorem test_decode_sequencer :
    decodeWord 0b0000000011101110 = .ret ∧ decodeWord 0b0001001000110100 = .jp 0x234 ∧
    decodeWord 0b0010111100000001 = .call 0xF01 ∧ decodeWord 0b0011000110100101 = .seImm 1 0xA5 ∧
    decodeWord 0b0100111001011010 = .sneImm 0xE 0x5A ∧ decodeWord 0b0101001101000000 = .seReg 3 4 ∧
    decodeWord 0b1001010001010000 = .sneReg 4 5 ∧ decodeWord 0b1011001011111111 = .jpV0 0x2FF := by decide

theorem test_decode_alu_immediate :
    decodeWord 0b0110111110101011 = .ldImm 0xF 0xAB ∧ decodeWord 0b0111000111111111 = .addImm 1 0xFF ∧
    decodeWord 0b1100000111110000 = .rnd 1 0xF0 := by decide

theorem test_decode_alu_register :
    decodeWord 0b1000000100100000 = .ldReg 1 2 ∧ decodeWord 0b1000000100100001 = .orReg 1 2 ∧
    decodeWord 0b1000000100100010 = .andReg 1 2 ∧ decodeWord 0b1000000100100011 = .xorReg 1 2 ∧
    decodeWord 0b1000000100100100 = .addReg 1 2 ∧ decodeWord 0b1000000100100101 = .sub 1 2 ∧
    decodeWord 0b1000000100100110 = .shr 1 2 ∧ decodeWord 0b1000000100100111 = .subn 1 2 ∧
    decodeWord 0b1000000100101110 = .shl 1 2 := by decide

theorem test_decode_index :
    decodeWord 0b1010001011110000 = .ldI 0x2F0 ∧ decodeWord 0b1111001100011110 = .addI 3 ∧
    decodeWord 0b1111001000101001 = .ldF 2 ∧ decodeWord 0b1111100000110011 = .ldB 8 ∧
    decodeWord 0b1111011101010101 = .storeRegs 7 ∧ decodeWord 0b1111011001100101 = .loadRegs 6 := by decide

theorem test_decode_keypad_timers :
    decodeWord 0b1110001010011110 = .skp 2 ∧ decodeWord 0b1110001010100001 = .sknp 2 ∧
    decodeWord 0b1111010000000111 = .ldVxDt 4 ∧ decodeWord 0b1111010000010101 = .ldDtVx 4 ∧
    decodeWord 0b1111010000011000 = .ldStVx 4 ∧ decodeWord 0b1111001100001010 = .ldVxK 3 := by decide

/-- F3: neighbours of the patterns are `UNIMPL`. -/
theorem test_decode_unimplemented :
    decodeWord 0x0000 = .unimpl 0x0000 ∧ decodeWord 0x00E1 = .unimpl 0x00E1 ∧ decodeWord 0x0123 = .unimpl 0x0123 ∧
    decodeWord 0x5121 = .unimpl 0x5121 ∧ decodeWord 0x8128 = .unimpl 0x8128 ∧ decodeWord 0x812F = .unimpl 0x812F ∧
    decodeWord 0x9121 = .unimpl 0x9121 ∧ decodeWord 0xE19F = .unimpl 0xE19F ∧ decodeWord 0xF20B = .unimpl 0xF20B ∧
    decodeWord 0xFFFF = .unimpl 0xFFFF := by decide

/-- S4, R51: bytes 0xA2, 0xF0 are 0xA2F0; R70: one byte is no instruction. -/
theorem test_decode_bytes :
    decode [0xA2, 0xF0, 0x12] = .ok (.ldI 0x2F0, [0x12]) ∧ decode [0x12] = .error .truncated := by
  exact ⟨rfl, rfl⟩

/-- The numbering of opcode_table.json. -/
theorem test_decode_table_word :
    decodeTableWord 16 0x8126 = some (.shr 1 2) ∧ decodeTableWord 16 0x00EE = some .ret := by decide

/-- S4: `Annn` with `nnn` = 0x2F0. -/
theorem test_encode : encode (.ldI 0x2F0) = 0xA2F0 ∧ encode (.drw 0 1 5) = 0xD015 := by decide

/-! ## The cycle (F), host events (S9, K11, K12) and faults (P7) -/

/-- F1. -/
theorem test_step_jp : seen (step (State.reset.withFetchWord 16 0x1234)) (·.pc) = some 0x234 := by decide
/-- F2. -/
theorem test_step_zero_word :
    seen (step State.reset) (fun t => (t.pc, t.events, t.halt)) = some (0x202, [⟨0x200, 0x0000⟩], .none) := by decide
/-- F5: 0xFFE is the last address a word can be fetched from. -/
theorem test_step_last_word :
    seen (step ({ State.reset with pc := 0xFFE } |>.withFetchWord 16 0x6007)) (fun t => (t.reg 0, t.pc, t.halt)) =
      some (7, 0x1000, .none) := by decide
/-- F6. -/
theorem test_step_fetch_range :
    seen (step { State.reset with pc := 0xFFF }) (fun t => (t.halt, t.pc)) = some (.fetchRange, 0xFFF) := by decide
/-- F8: an odd `pc` is legal. -/
theorem test_step_odd_pc :
    seen (step ({ State.reset with pc := 0x203 } |>.withFetchWord 16 0x612A)) (fun t => (t.reg 1, t.pc)) =
      some (0x2A, 0x205) := by decide
/-- F10: a halted machine ignores Cycle and takes Tick. -/
theorem test_step_halted :
    seen (step { State.reset with halt := .fetchRange, dt := 3 }) (fun t => (t.pc, t.dt)) = some (0x200, 3) ∧
    seen (step { State.reset with halt := .fetchRange, dt := 3, hostQueue := [.tick] }) (fun t => (t.halt, t.dt)) =
      some (.fetchRange, 2) := by decide
/-- S9: from 1 to 0, and 0 stays. -/
theorem test_tick : countDown 1 = 0 ∧ countDown 0 = 0 ∧ countDown 0xFF = 0xFE := by decide
/-- K11. -/
theorem test_tick_event :
    seen (step { State.reset with dt := 2, hostQueue := [.tick] }) (fun t => (t.dt, t.st, t.hostQueue)) =
      some (1, 0, []) := by decide
/-- K12. -/
theorem test_keySet :
    seen (step (queued [.keySet 3 true])) (fun t => (t.keyDown 3, t.keyDown 2)) = some (true, false) ∧
    seen (step ((held 3).setQueue [.keySet 3 false])) (·.keyDown 3) = some false := by decide
/-- P1: the ROM's first bytes, and the word they make. -/
theorem test_reset_rom :
    seen (step (queued [.reset [0x60, 0x05, 0x70, 0x05]])) (fun t => (t.fetch?, t.ram 0x203, t.ram 0x204, t.halt)) =
      some (some 0x6005, 5, 0, .none) := by decide
/-- P7(d): 3585 bytes are one too many. -/
theorem test_reset_too_large (s : State) :
    (resetWith (List.replicate 3585 0x12) s).halt = .loadTooLarge ∧
    (resetWith (List.replicate 3584 0x12) s).halt = .none := by
  unfold resetWith Config.maxRom
  rw [List.length_replicate, List.length_replicate]
  exact ⟨rfl, rfl⟩
/-- R96(b): sound is audible exactly when `st` is not 0. -/
theorem test_audible : State.reset.audible = false ∧ (State.reset.setSt 1).audible = true := by decide

/-! ## Sequencer and stack (Q) -/

/-- Q1. -/
theorem test_ret_underflow :
    after 0x00EE State.reset (fun t => (t.halt.code, t.pc, t.sp)) = some (2, 0x200, 0) := by decide
/-- Q2: no `+ 2`, and the entry keeps its value. -/
theorem test_ret :
    after 0x00EE { State.reset with sp := 1, stack := State.reset.stack.set 0 0x206, pc := 0x20C }
      (fun t => (t.pc, t.sp, t.stack[0])) = some (0x206, 0, 0x206) := by decide
/-- Q4. -/
theorem test_jp_self : after 0x1200 State.reset id = some State.reset := by decide
/-- Q6: the 16th nested call is legal. -/
theorem test_call_sixteenth :
    after 0x2300 { State.reset with sp := 15 } (fun t => (t.stack[15], t.sp, t.pc, t.halt)) =
      some (0x202, 16, 0x300, .none) := by decide
/-- Q7. -/
theorem test_call_overflow :
    after 0x2300 { State.reset with sp := 16 } (fun t => (t.halt.code, t.pc, t.sp)) = some (3, 0x200, 16) := by decide
/-- Q10, Q11. -/
theorem test_seImm :
    after 0x3100 { State.reset with pc := 0x208 } (·.pc) = some 0x20C ∧
    after 0x3100 { State.reset.setReg 1 4 with pc := 0x208 } (·.pc) = some 0x20A := by decide
/-- Q12. -/
theorem test_sneImm :
    after 0x4005 (State.reset.setReg 0 5) (·.pc) = some 0x202 ∧
    after 0x4005 (State.reset.setReg 0 6) (·.pc) = some 0x204 := by decide
/-- Q13. -/
theorem test_seReg : after 0x5110 (State.reset.setReg 1 3) (·.pc) = some 0x204 := by decide
/-- Q15. -/
theorem test_sneReg :
    after 0x9120 (two 1 7 2 8) (·.pc) = some 0x204 ∧ after 0x9120 (two 1 7 2 7) (·.pc) = some 0x202 := by decide
/-- Q18: `v[0]`, not `v[2]`; Q19: not masked. -/
theorem test_jpV0 :
    after 0xB2FF (two 0 2 2 0x50) (·.pc) = some 0x301 ∧
    after 0xBFFF (State.reset.setReg 0 0xFF) (fun t => (t.pc, t.halt)) = some (0x10FE, .none) := by decide
/-- F4: a word that is not quite `5xy0` does not skip. -/
theorem test_unimpl :
    after 0x5121 (two 1 3 2 3) (fun t => (t.pc, t.events)) = some (0x202, [⟨0x200, 0x5121⟩]) := by decide

/-! ## Register file and ALU (A) -/

/-- A30. -/
theorem test_ldImm : after 0x6FAB State.reset (·.reg 15) = some 0xAB := by decide
/-- A28: no carry. -/
theorem test_addImm : after 0x7001 (State.reset.setReg 0 255) (fun t => (t.reg 0, t.reg 15)) = some (0, 0) := by decide
/-- A26. -/
theorem test_ldReg : after 0x8120 (State.reset.setReg 2 0x3C) (·.reg 1) = some 0x3C := by decide
/-- A23: VF is left alone. -/
theorem test_orReg :
    after 0x8121 ((two 1 0x0F 2 0xF0).setReg 15 1) (fun t => (t.reg 1, t.reg 15)) = some (0xFF, 1) := by decide
/-- A24. -/
theorem test_andReg : after 0x8122 (two 1 0x3C 2 0x0F) (·.reg 1) = some 0x0C := by decide
/-- A25. -/
theorem test_xorReg : after 0x8113 (State.reset.setReg 1 0xAB) (·.reg 1) = some 0 := by decide
/-- A1: with `x = 15` the sum remains. -/
theorem test_addReg_into_vf : after 0x8F14 (two 15 200 1 100) (·.reg 15) = some 0x2C := by decide
/-- A2: the operand is the old VF. -/
theorem test_addReg_from_vf :
    after 0x81F4 (two 1 255 15 1) (fun t => (t.reg 1, t.reg 15)) = some (0, 1) := by decide
/-- A5: equal operands. -/
theorem test_sub_equal : after 0x8125 (two 1 7 2 7) (fun t => (t.reg 1, t.reg 15)) = some (0, 0) := by decide
/-- A8: the subtrahend is the old VF. -/
theorem test_sub_from_vf : after 0x81F5 (two 1 5 15 1) (fun t => (t.reg 1, t.reg 15)) = some (4, 1) := by decide
/-- A11, A12. -/
theorem test_subn :
    after 0x8127 (two 1 3 2 5) (fun t => (t.reg 1, t.reg 15)) = some (2, 1) ∧
    after 0x8127 (two 1 5 2 3) (fun t => (t.reg 1, t.reg 15)) = some (0xFE, 0) := by decide
/-- A15. -/
theorem test_subn_into_vf : after 0x8F17 (two 15 3 1 5) (·.reg 15) = some 2 := by decide
/-- A18, for both values of the quirk. -/
theorem test_shr :
    seen (shiftRight 1 (shiftSource false 0xFF 0) (two 1 0xFF 2 0)) (fun t => (t.reg 1, t.reg 15)) = some (0x7F, 1) ∧
    seen (shiftRight 1 (shiftSource true 0xFF 0) (two 1 0xFF 2 0)) (fun t => (t.reg 1, t.reg 15)) = some (0, 0) := by
  decide
/-- A19: with `x = 15` the result remains. -/
theorem test_shr_into_vf : seen (shiftRight 15 (shiftSource true 3 6) (two 15 3 2 6)) (·.reg 15) = some 3 := by decide
/-- A21, for both values of the quirk. -/
theorem test_shl :
    seen (shiftLeft 1 (shiftSource false 0x81 0x40) (two 1 0x81 2 0x40)) (fun t => (t.reg 1, t.reg 15)) =
      some (0x02, 1) ∧
    seen (shiftLeft 1 (shiftSource true 0x81 0x40) (two 1 0x81 2 0x40)) (fun t => (t.reg 1, t.reg 15)) =
      some (0x80, 0) := by decide
/-- R129, R131: the meanings take the quirk from the configuration and `v[y]`, `v[x]` from the registers. -/
theorem test_shift_source (x y : Reg) (s : State) :
    execShr x y s = shiftRight x (if Config.shiftUsesVy then s.reg y else s.reg x) s ∧
    execShl x y s = shiftLeft x (if Config.shiftUsesVy then s.reg y else s.reg x) s := ⟨rfl, rfl⟩
/-- A31, A32. -/
theorem test_rnd :
    seen (maskedRandom 1 0xA7 0xF0 State.reset) (fun t => (t.reg 1, t.rndCount)) = some (0xA0, 1) ∧
    seen (maskedRandom 1 0xA7 0x0F State.reset) (·.reg 1) = some 0x07 := by decide

/-! ## Index register, loads and stores (M) -/

/-- M1. -/
theorem test_ldI : after 0xA2F0 State.reset (fun t => (t.i, t.pc)) = some (0x02F0, 0x202) := by decide
/-- M2, M3. -/
theorem test_addI :
    after 0xF31E ((State.reset.setReg 3 5).setI 0x0FFE) (·.i) = some 0x1003 ∧
    after 0xF31E ((State.reset.setReg 3 1).setI 0xFFFF) (·.i) = some 0 := by decide
/-- M6, M7: no digit mask. -/
theorem test_ldF :
    after 0xF229 (State.reset.setReg 2 0x10) (·.i) = some 0x0050 ∧
    after 0xF229 (State.reset.setReg 2 0xFF) (·.i) = some 0x04FB := by decide
/-- S3, M9: the address is taken mod 4096. -/
theorem test_ldB :
    after 0xF033 ((State.reset.setReg 0 234).setI 0x1300)
      (fun t => (t.ram 0x300, t.ram 0x301, t.ram 0x302, t.i)) = some (2, 3, 4, 0x1300) := by decide
/-- S3: the digits of 7 and 0. -/
theorem test_bcd : bcdDigits 7 = [0, 0, 7] ∧ bcdDigits 0 = [0, 0, 0] ∧ bcdDigits 255 = [2, 5, 5] := by decide
/-- M8, M13: the address wraps. -/
theorem test_ea : ea 0x0FFF 1 = 0x000 ∧ ea 0x0FFF 0 = 0xFFF ∧ ea 0xFFFE 2 = 0x000 := by decide
/-- M11, for both values of the quirk. -/
theorem test_storeRegs :
    seen (storeBlock false 0 ((State.reset.setReg 0 0x77).setI 0x400)) (fun t => (t.ram 0x400, t.ram 0x401, t.i)) =
      some (0x77, 0, 0x400) ∧
    seen (storeBlock true 0 ((State.reset.setReg 0 0x77).setI 0x400)) (·.i) = some 0x401 := by decide
/-- M12: `x = 15` stores 16 registers, the last one VF. -/
theorem test_storeRegs_all :
    seen (storeBlock true 15 ((two 0 0xA0 15 0xAF).setI 0x0F00)) (fun t => (t.ram 0xF00, t.ram 0xF0F, t.i)) =
      some (0xA0, 0xAF, 0xF10) := by decide
/-- M16: the bytes of the instruction itself are data. -/
theorem test_loadRegs :
    seen (loadBlock true 3 (poke (poke (State.reset.withFetchWord 16 0xF365) 0x1FE 0xDE) 0x1FF 0xAD |>.setI 0x1FE))
      (fun t => (t.reg 0, t.reg 1, t.reg 2, t.reg 3, t.reg 4, t.i)) = some (0xDE, 0xAD, 0xF3, 0x65, 0, 0x202) := by
  decide
/-- M13, M15: the advance of `i`, for both values of the quirk. -/
theorem test_blockIndex :
    blockIndex false 0xFFFE 2 = 0xFFFE ∧ blockIndex true 0xFFFE 2 = 0x0001 ∧ blockIndex true 0x0FFF 1 = 0x1001 := by
  decide
/-- R144, R145: the meanings take the quirk from the configuration. -/
theorem test_block_quirk (x : Reg) (s : State) :
    execStoreRegs x s = storeBlock Config.storeReadAdvancesI x s ∧
    execLoadRegs x s = loadBlock Config.storeReadAdvancesI x s := ⟨rfl, rfl⟩

/-! ## Display (W) -/

/-- S5: off to on, then on to off; (69, 37) is the same cell as (5, 5). -/
theorem test_put :
    (Display.put .cleared 5 5).2 = false ∧ ((Display.put .cleared 5 5).1.put 69 37).2 = true ∧
    ((Display.put .cleared 5 5).1.put 69 37).1.cell 5 5 = false := by decide
/-- W2: each pixel wraps on its own. -/
theorem test_drw_wraps :
    after 0xD011 ((poke (two 0 60 1 5) 0x300 0xFF).setI 0x300)
      (fun t => [t.pixel 59 5, t.pixel 60 5, t.pixel 63 5, t.pixel 0 5, t.pixel 3 5, t.pixel 4 5]) =
      some [false, true, true, true, true, false] := by decide
/-- W6: one collision in row 0 is kept. -/
theorem test_drw_collision_sticky :
    after 0xD013 ((poke (poke (((lit 10 10).setReg 0 10).setReg 1 10) 0x300 0xC0) 0x302 0x40).setI 0x300)
      (fun t => (t.pixel 10 10, t.pixel 11 10, t.pixel 11 12, t.reg vf)) = some (false, true, true, 1) := by decide
/-- W9: VF is left alone. -/
theorem test_cls :
    after 0x00E0 ((lit 63 31).setReg 15 1) (fun t => (t.pixel 63 31, t.reg 15, t.pc)) = some (false, 1, 0x202) := by
  decide

/-! ## Keypad and timers (K) -/

/-- K2, K4. -/
theorem test_skp :
    after 0xE29E ((held 0xA).setReg 2 0x1A) (·.pc) = some 0x204 ∧
    after 0xE29E (State.reset.setReg 2 0x0A) (·.pc) = some 0x202 := by decide
/-- K3, K4. -/
theorem test_sknp :
    after 0xE2A1 ((held 0xA).setReg 2 0x1A) (·.pc) = some 0x202 ∧
    after 0xE2A1 (State.reset.setReg 2 0x0A) (·.pc) = some 0x204 := by decide
/-- K5. -/
theorem test_ldVxK_waits :
    after 0xF30A (State.reset.setReg 3 0x55) (fun t => (t.pc, t.mode, t.reg 3)) =
      some (0x200, .waitingForKey, 0x55) := by decide
/-- K6: the lowest key; the wait ends. -/
theorem test_ldVxK_takes_lowest :
    after 0xF30A (({ held 15 with mode := .waitingForKey }.setKey 0 true).setReg 3 0x55)
      (fun t => (t.reg 3, t.pc, t.mode)) = some (0, 0x202, .running) := by decide
/-- K8. -/
theorem test_ldVxDt : after 0xF407 (State.reset.setDt 0x3C) (fun t => (t.reg 4, t.dt)) = some (0x3C, 0x3C) := by decide
/-- K9. -/
theorem test_ldDtVx : after 0xF415 (State.reset.setDt 9) (·.dt) = some 0 := by decide
/-- K10. -/
theorem test_ldStVx : after 0xF418 (State.reset.setReg 4 0xFF) (fun t => (t.st, t.dt)) = some (255, 0) := by decide

/-! ## Witnesses: states and operands that meet the hypotheses of the obligations -/

theorem witness_DecodeOfEncode : (Instr.drw 15 15 15).wf = true ∧ (Instr.unimpl 0xFFFF).wf = true := by decide

/-- No event waiting, at the last legal `pc`; a Cycle waiting. -/
theorem witness_StepRunsDecodedInstruction :
    (∃ s : State, s.halt = .none ∧ s.pc.toNat ≤ 4094 ∧ s.hostQueue = [] ∧ s.pc.toNat = 4094) ∧
    ∃ (s : State) (q : _), s.halt = .none ∧ s.pc.toNat ≤ 4094 ∧ s.hostQueue = .cycle :: q :=
  ⟨⟨{ State.reset with pc := 0xFFE }, by decide⟩, ⟨queued [.cycle, .tick], [.tick], by decide⟩⟩

/-- Both sides of the boundary, with no event waiting and with a Cycle waiting. -/
theorem witness_FetchRange :
    (∃ s : State, s.pc.toNat ≤ 4094 ∧ s.pc.toNat = 4094) ∧
    (∃ s : State, 4095 ≤ s.pc.toNat ∧ s.halt = .none ∧ s.hostQueue = [] ∧ s.pc.toNat = 4095) ∧
    ∃ (s : State) (q : _), 4095 ≤ s.pc.toNat ∧ s.halt = .none ∧ s.hostQueue = .cycle :: q ∧ s.pc.toNat = 4095 :=
  ⟨⟨{ State.reset with pc := 0xFFE }, by decide⟩, ⟨{ State.reset with pc := 0xFFF }, by decide⟩,
    ⟨{ State.reset with pc := 0xFFF, hostQueue := [.cycle, .tick] }, [.tick], by decide⟩⟩

/-- A halted machine with no event, a Cycle, a Tick, a KeySet and a Reset waiting. -/
theorem witness_HaltedUntilReset :
    (∃ s : State, s.halt ≠ .none ∧ s.hostQueue = []) ∧
    (∃ (s : State) (q : _), s.halt ≠ .none ∧ s.hostQueue = .cycle :: q) ∧
    (∃ (s : State) (q : _), s.halt ≠ .none ∧ s.hostQueue = .tick :: q ∧ ∀ rom, HostEvent.tick ≠ .reset rom) ∧
    (∃ (s : State) (q : _), s.halt ≠ .none ∧ s.hostQueue = .keySet 15 true :: q ∧
      ∀ rom, HostEvent.keySet 15 true ≠ .reset rom) ∧
    ∃ (s : State) (q : _) (rom : List Byte), s.halt ≠ .none ∧ s.hostQueue = .reset rom :: q ∧ rom.length ≤ 3584 :=
  ⟨⟨{ State.reset with halt := .fetchRange }, by decide⟩,
    ⟨{ State.reset with halt := .stackUnderflow, hostQueue := [.cycle] }, [], by decide⟩,
    ⟨{ State.reset with halt := .stackOverflow, hostQueue := [.tick] }, [], by decide, rfl, nofun⟩,
    ⟨{ State.reset with halt := .loadTooLarge, hostQueue := [.keySet 15 true] }, [], by decide, rfl, nofun⟩,
    ⟨{ State.reset with halt := .loadTooLarge, hostQueue := [.reset [0x12, 0x00]] }, [], [0x12, 0x00], by decide⟩⟩

theorem witness_TickCountsDown : ∃ (s : State) (q : _), s.hostQueue = .tick :: q ∧ s.dt = 0 ∧ s.st = 255 :=
  ⟨{ State.reset with st := 255, hostQueue := [.tick] }, [], by decide⟩

theorem witness_KeySetWritesOneFlag : ∃ (s : State) (q : _), s.hostQueue = .keySet 0 true :: q :=
  ⟨queued [.keySet 0 true], [], rfl⟩

/-- The empty ROM and the largest one. -/
theorem witness_ResetLoadsRom :
    (∃ (s : State) (q : _) (rom : List Byte), s.hostQueue = .reset rom :: q ∧ rom.length ≤ 3584 ∧ rom = []) ∧
    ∃ (s : State) (q : _) (rom : List Byte), s.hostQueue = .reset rom :: q ∧ rom.length ≤ 3584 ∧ rom.length = 3584 :=
  ⟨⟨queued [.reset []], [], [], by decide⟩,
    ⟨queued [.reset (List.replicate 3584 0x12)], [], List.replicate 3584 0x12, rfl,
      by rw [List.length_replicate], by rw [List.length_replicate]⟩⟩

/-- The ends of each range of addresses the statement on Reset speaks of, for a ROM of one byte. -/
theorem witness_ResetLoadsRom_addresses :
    (∃ k : Fin 80, k.val = 79) ∧ (∃ a, 0x050 ≤ a ∧ a < 0x200 ∧ a = 0x1FF) ∧ (∃ k, k < [(0x12 : Byte)].length ∧ k = 0) ∧
    ∃ a, 0x200 + [(0x12 : Byte)].length ≤ a ∧ a = 0x201 :=
  ⟨⟨79, rfl⟩, ⟨0x1FF, by decide⟩, ⟨0, by decide⟩, ⟨0x201, by decide⟩⟩

/-- The smallest ROM that is too large. -/
theorem witness_OversizeRomRefused :
    ∃ (s : State) (q : _) (rom : List Byte), s.hostQueue = .reset rom :: q ∧ 3584 < rom.length ∧ rom.length = 3585 :=
  ⟨queued [.reset (List.replicate 3585 0x12)], [], List.replicate 3585 0x12, rfl,
    by rw [List.length_replicate]; decide, by rw [List.length_replicate]⟩

/-- A state other than reset, inside a called routine, that meets the invariant and steps. -/
theorem witness_StepKeepsInv : ∃ s t : State, s.Inv ∧ step s = .next t ∧ s.sp = 1 ∧ s.pc = 0xFFE :=
  ⟨{ State.reset with pc := 0xFFE, sp := 1, stack := State.reset.stack.set 0 0x206 }, _,
    ⟨by decide, by decide, by decide, nofun, trivial, nofun⟩, rfl, rfl, rfl⟩

/-- The clause on a mode that was not halted, and a halting cycle. -/
theorem witness_ModeIsNeverRead :
    seen (cycle State.reset) (·.halt) = some .none ∧ seen (cycle { State.reset with pc := 0xFFF }) (·.halt) =
      some .fetchRange := by decide

/-- A jump answers a next state and is none of the instructions the clauses except. -/
theorem witness_OnlyNamedInstructionsWrite :
    ∃ i s t, exec i s = .next t ∧ (∀ x, i ≠ .ldB x) ∧ (∀ x, i ≠ .storeRegs x) ∧ i ≠ .cls ∧ (∀ x y n, i ≠ .drw x y n) ∧
      (∀ nnn, i ≠ .ldI nnn) ∧ (∀ x, i ≠ .addI x) ∧ (∀ x, i ≠ .ldF x) ∧ (∀ x, i ≠ .loadRegs x) ∧ i ≠ .ret ∧
      (∀ nnn, i ≠ .call nnn) ∧ (∀ x, i ≠ .ldDtVx x) ∧ (∀ x, i ≠ .ldStVx x) ∧ (∀ w, i ≠ .unimpl w) ∧
      ∀ x kk, i ≠ .rnd x kk :=
  ⟨.jp 0x300, State.reset, _, rfl, nofun, nofun, nofun, nofun, nofun, nofun, nofun, nofun, nofun, nofun, nofun, nofun,
    nofun, nofun⟩

/-- `7xkk` on a register other than VF, with a carry. -/
theorem witness_OnlySixWriteVfAsFlag :
    ∃ i s t, exec i s = .next t ∧ (∀ x y, i ≠ .addReg x y) ∧ (∀ x y, i ≠ .sub x y) ∧ (∀ x y, i ≠ .shr x y) ∧
      (∀ x y, i ≠ .subn x y) ∧ (∀ x y, i ≠ .shl x y) ∧ (∀ x y n, i ≠ .drw x y n) ∧ (∀ kk, i ≠ .ldImm vf kk) ∧
      (∀ kk, i ≠ .addImm vf kk) ∧ (∀ y, i ≠ .ldReg vf y) ∧ (∀ y, i ≠ .orReg vf y) ∧ (∀ y, i ≠ .andReg vf y) ∧
      (∀ y, i ≠ .xorReg vf y) ∧ (∀ kk, i ≠ .rnd vf kk) ∧ i ≠ .ldVxDt vf ∧ i ≠ .ldVxK vf ∧ i ≠ .loadRegs vf :=
  ⟨.addImm 14 0xFF, two 14 0xFF 15 9, _, rfl, nofun, nofun, nofun, nofun, nofun, nofun, nofun,
    fun kk h => absurd (Instr.addImm.inj h).1 (by decide), nofun, nofun, nofun, nofun, nofun, nofun, nofun, nofun⟩

/-- Two states that differ in every entry of an empty stack; one that differs above a nonempty one. -/
theorem witness_StaleStackNeverRead :
    (∃ s u t : State, SameButStaleStack s u ∧ step s = .next t ∧ s.sp = 0 ∧ u.stack ≠ s.stack) ∧
    ∃ s u t : State, SameButStaleStack s u ∧ step s = .next t ∧ s.sp = 15 ∧ u.stack ≠ s.stack :=
  ⟨⟨State.reset, { State.reset with stack := Vector.replicate 16 0xFFFF }, _, ⟨rfl, by decide⟩, rfl, rfl, by decide⟩,
    ⟨{ State.reset with sp := 15 }, { State.reset with sp := 15, stack := State.reset.stack.set 15 0xFFFF }, _,
      ⟨rfl, by decide⟩, rfl, rfl, by decide⟩⟩

/-- In the middle of RAM, and at the last two bytes. -/
theorem witness_StoredBytesAreFetched :
    (∃ (s : State) (x : Reg) (k : Nat) (p : Word), s.mem.wf = true ∧ k + 1 ≤ x.val ∧ p.toNat ≤ 4094 ∧
      (ea s.i k).toNat = p.toNat ∧ (ea s.i (k + 1)).toNat = p.toNat + 1 ∧ p = 0x20A) ∧
    ∃ (s : State) (x : Reg) (k : Nat) (p : Word), s.mem.wf = true ∧ k + 1 ≤ x.val ∧ p.toNat ≤ 4094 ∧
      (ea s.i k).toNat = p.toNat ∧ (ea s.i (k + 1)).toNat = p.toNat + 1 ∧ p = 0xFFE ∧ x = 15 :=
  ⟨⟨State.reset.setI 0x20A, 1, 0, 0x20A, by decide⟩, ⟨State.reset.setI 0xFF0, 15, 14, 0xFFE, by decide⟩⟩

/-- One entry, and a full stack. -/
theorem witness_RetPops :
    (∃ (s : State) (k : Fin 16), s.sp.val = k.val + 1 ∧ k = 0) ∧ ∃ (s : State) (k : Fin 16), s.sp.val = k.val + 1 ∧ k = 15 :=
  ⟨⟨{ State.reset with sp := 1 }, 0, by decide⟩, ⟨{ State.reset with sp := 16 }, 15, by decide⟩⟩

theorem witness_RetUnderflow : ∃ s : State, s.sp.val = 0 := ⟨State.reset, by decide⟩

/-- An empty stack, and one with a single free entry. -/
theorem witness_CallPushes :
    (∃ (s : State) (k : Fin 16), s.sp.val = k.val ∧ k = 0) ∧ ∃ (s : State) (k : Fin 16), s.sp.val = k.val ∧ k = 15 :=
  ⟨⟨State.reset, 0, by decide⟩, ⟨{ State.reset with sp := 15 }, 15, by decide⟩⟩

theorem witness_CallOverflow : ∃ s : State, s.sp.val = 16 := ⟨{ State.reset with sp := 16 }, by decide⟩

/-- The hypothesis is that of `CallPushes`. -/
theorem witness_CallThenRetComesBack : ∃ (s : State) (k : Fin 16), s.sp.val = k.val ∧ k = 15 :=
  ⟨{ State.reset with sp := 15 }, 15, by decide⟩

/-- The clause on the flag, `x` other than VF. -/
theorem witness_flag_clause : (14 : Reg) ≠ vf := by decide

/-- RAM in canonical form with a cell listed, for the two storing instructions. -/
theorem witness_LdBStoresDigits : ∃ s : State, s.mem.wf = true ∧ s.mem ≠ [] :=
  ⟨State.reset.withFetchWord 16 0xF033, by decide⟩
theorem witness_StoreRegsStores : ∃ (s : State) (x k : Reg), s.mem.wf = true ∧ k ≤ x ∧ k = 15 :=
  ⟨State.reset.withFetchWord 16 0xFF55, 15, 15, by decide⟩
theorem witness_LoadRegsLoads : ∃ x k : Reg, k ≤ x ∧ k = 15 := ⟨15, 15, by decide⟩

/-- A covered cell, at a wrapped column, that is lit, and one that is not. -/
theorem witness_DrwXorsWrappedSprite :
    (∃ (s : State) (x y n : Fin 16), SpriteCovers (fun row => s.ram (ea s.i row).toNat) (s.reg x).toNat (s.reg y).toNat
      n.val 0 5 ∧ s.pixel 0 5 = true) ∧
    ∃ (s : State) (x y n : Fin 16), SpriteCovers (fun row => s.ram (ea s.i row).toNat) (s.reg x).toNat (s.reg y).toNat
      n.val 0 5 ∧ s.pixel 0 5 = false :=
  ⟨⟨(poke (((lit 0 5).setReg 0 63).setReg 1 5) 0x300 0x40).setI 0x300, 0, 1, 1, ⟨0, 1, by decide⟩, by decide⟩,
    ⟨(poke (two 0 63 1 5) 0x300 0x40).setI 0x300, 0, 1, 1, ⟨0, 1, by decide⟩, by decide⟩⟩

/-- An index above 15. -/
theorem witness_KeySkips : ∃ (s : State) (x : Reg) (k : Fin 16), k.val = (s.reg x).toNat % 16 ∧ s.reg x = 0x1A :=
  ⟨State.reset.setReg 2 0x1A, 2, 0xA, by decide⟩

/-- The highest key alone down; none down. -/
theorem witness_LdVxKTakesLowestKey :
    (∃ (s : State) (k : Fin 16), s.keyDown k = true ∧ (∀ j, j < k → s.keyDown j = false) ∧ k = 15) ∧
    ∃ s : State, ∀ k, s.keyDown k = false :=
  ⟨⟨held 15, 15, by decide⟩, ⟨State.reset, by decide⟩⟩

end Sys2Proof.Tests
end

section
/-! The converse of the encoder (spec R75, R76): encoding what was decoded gives the word back, and what was decoded is
well formed. -/

namespace Sys2Proof

/-! ### A word is the encoding of its own fields (R71) -/

theorem encodeNNN_nnnField (w : Word) : encodeNNN (opField w) (nnnField w) = w := by
  have := w.isLt
  apply BitVec.eq_of_toNat_eq
  rw [encodeNNN_toNat _ _ (by rw [opField_eq]; omega), opField_eq, nnnField_toNat]
  omega

theorem encodeXKK_xField_kkField (w : Word) : encodeXKK (opField w) (xField w) (kkField w) = w := by
  have := w.isLt
  apply BitVec.eq_of_toNat_eq
  rw [encodeXKK_toNat _ _ _ (by rw [opField_eq]; omega), opField_eq, xField_val, kkField_toNat]
  omega

theorem encodeXYN_xField_yField_nField (w : Word) :
    encodeXYN (opField w) (xField w) (yField w) (nField w) = w := by
  have := w.isLt
  apply BitVec.eq_of_toNat_eq
  rw [encodeXYN_toNat _ _ _ _ (by rw [opField_eq]; omega), opField_eq, xField_val, yField_val, nField_val]
  omega

theorem encodeNNN_eq_of_op {w : Word} {op : Nat} (h : opField w = op) : encodeNNN op (nnnField w) = w :=
  h ▸ encodeNNN_nnnField w

theorem encodeXKK_eq_of_op {w : Word} {op : Nat} (h : opField w = op) :
    encodeXKK op (xField w) (kkField w) = w :=
  h ▸ encodeXKK_xField_kkField w

theorem encodeXKK_eq_of_op_kk {w : Word} {op : Nat} {kk : Byte} (h : opField w = op)
    (hkk : (kkField w).toNat = kk.toNat) : encodeXKK op (xField w) kk = w := by
  rw [← BitVec.eq_of_toNat_eq hkk, encodeXKK_eq_of_op h]

theorem encodeXYN_eq_of_op {w : Word} {op : Nat} (h : opField w = op) :
    encodeXYN op (xField w) (yField w) (nField w) = w :=
  h ▸ encodeXYN_xField_yField_nField w

theorem encodeXYN_eq_of_op_n {w : Word} {op : Nat} {n : Fin 16} (h : opField w = op)
    (hn : (nField w).val = n.val) : encodeXYN op (xField w) (yField w) n = w := by
  rw [← Fin.ext hn, encodeXYN_eq_of_op h]

/-! ### Encoding what was decoded gives the word back (R75) -/

theorem encode_decodeGroup0 (w : Word) : encode (decodeGroup0 w) = w := by
  unfold decodeGroup0
  split
  · next h => exact h.symm
  · split
    · next h => exact h.symm
    · rfl

theorem encode_decodeGroup8 {w : Word} (h : opField w = 8) : encode (decodeGroup8 w) = w := by
  unfold decodeGroup8
  split
  case h_10 => rfl
  all_goals exact encodeXYN_eq_of_op_n h ‹_›

theorem encode_decodeGroupE {w : Word} (h : opField w = 14) : encode (decodeGroupE w) = w := by
  unfold decodeGroupE
  split
  case h_3 => rfl
  all_goals exact encodeXKK_eq_of_op_kk h ‹_›

theorem encode_decodeGroupF {w : Word} (h : opField w = 15) : encode (decodeGroupF w) = w := by
  unfold decodeGroupF
  split
  case h_10 => rfl
  all_goals exact encodeXKK_eq_of_op_kk h ‹_›

theorem opField_lt (w : Word) : opField w < 16 := by
  have := w.isLt
  rw [opField_eq]
  omega

/-- No bit of a word is lost by decoding it. -/
theorem encode_decodeWord (w : Word) : encode (decodeWord w) = w := by
  unfold decodeWord
  split
  case h_1 => exact encode_decodeGroup0 w
  case h_2 | h_3 | h_11 | h_12 => exact encodeNNN_eq_of_op ‹_›
  case h_4 | h_5 | h_7 | h_8 | h_13 => exact encodeXKK_eq_of_op ‹_›
  case h_14 => exact encodeXYN_eq_of_op ‹_›
  case h_6 | h_10 =>
    split
    · next hn => exact encodeXYN_eq_of_op_n ‹_› (by rw [hn])
    · rfl
  case h_9 => exact encode_decodeGroup8 ‹_›
  case h_15 => exact encode_decodeGroupE ‹_›
  case h_16 =>
    have := opField_lt w
    exact encode_decodeGroupF (by grind)

/-! ### A decoded instruction is well formed (R76, R81) -/

/-! A row's comparison, split into the comparison of the major op code and that of the field its mask keeps. -/

theorem accepts_iff_fields_word (m : String) (p w : Word) :
    (OpcodeRow.mk m 0xFFFF p).accepts w = true ↔ opField w = p.toNat / 4096 ∧ w.toNat = p.toNat := by
  rw [accepts_iff_word, opField_eq]
  omega

theorem accepts_iff_fields_op (m : String) {p : Word} (w : Word) (hp : p.toNat / 4096 * 4096 = p.toNat) :
    (OpcodeRow.mk m 0xF000 p).accepts w = true ↔ opField w = p.toNat / 4096 := by
  rw [accepts_iff_op, opField_eq]
  omega

theorem accepts_iff_fields_op_n (m : String) {p : Word} (w : Word)
    (hp : p.toNat / 4096 * 4096 + p.toNat % 16 = p.toNat) :
    (OpcodeRow.mk m 0xF00F p).accepts w = true ↔ opField w = p.toNat / 4096 ∧ w.toNat % 16 = p.toNat % 16 := by
  rw [accepts_iff_op_n, opField_eq]
  omega

theorem accepts_iff_fields_op_kk (m : String) {p : Word} (w : Word)
    (hp : p.toNat / 4096 * 4096 + p.toNat % 256 = p.toNat) :
    (OpcodeRow.mk m 0xF0FF p).accepts w = true ↔ opField w = p.toNat / 4096 ∧ w.toNat % 256 = p.toNat % 256 := by
  rw [accepts_iff_op_kk, opField_eq]
  omega

/-- R76: the words that match no row of the opcode map, class by class. -/
theorem isUnimplWord_iff (w : Word) : isUnimplWord w = true ↔
    (opField w = 0x0 ∧ w.toNat ≠ 0x0E0 ∧ w.toNat ≠ 0x0EE) ∨
    (opField w = 0x5 ∧ w.toNat % 16 ≠ 0) ∨
    (opField w = 0x8 ∧ w.toNat % 16 ∈ [0x8, 0x9, 0xA, 0xB, 0xC, 0xD, 0xF]) ∨
    (opField w = 0x9 ∧ w.toNat % 16 ≠ 0) ∨
    (opField w = 0xE ∧ w.toNat % 256 ∉ [0x9E, 0xA1]) ∨
    (opField w = 0xF ∧ w.toNat % 256 ∉ [0x07, 0x0A, 0x15, 0x18, 0x1E, 0x29, 0x33, 0x55, 0x65]) := by
  have hop := opField_lt w
  simp (disch := decide) only [isUnimplWord, opcodeRows, List.cons_append, List.nil_append, List.all_cons,
    List.all_nil, Bool.and_true, Bool.and_eq_true, Bool.not_eq_true', ← Bool.not_eq_true, accepts_iff_fields_op,
    accepts_iff_fields_op_n, accepts_iff_fields_op_kk, accepts_iff_fields_word]
  simp only [BitVec.ofNat_eq_ofNat, BitVec.toNat_ofNat, Nat.reducePow, Nat.reduceMod, Nat.reduceDiv]
  -- Under a fixed major op code `simp` drops the rows of every other one.
  interval_cases opField w <;> simp <;> omega

theorem decodeGroup0_wf {w : Word} (h : opField w = 0) : (decodeGroup0 w).wf = true := by
  unfold decodeGroup0
  split
  · rfl
  · split
    · rfl
    · next h1 h2 =>
      exact (isUnimplWord_iff w).2 (.inl ⟨h, fun e => h1 (BitVec.eq_of_toNat_eq e), fun e => h2 (BitVec.eq_of_toNat_eq e)⟩)

theorem decodeGroup8_wf {w : Word} (h : opField w = 8) : (decodeGroup8 w).wf = true := by
  unfold decodeGroup8
  split
  case h_10 =>
    refine (isUnimplWord_iff w).2 (.inr (.inr (.inl ⟨h, ?_⟩)))
    simp_all [nField_val]
    omega
  all_goals rfl

theorem decodeGroupE_wf {w : Word} (h : opField w = 14) : (decodeGroupE w).wf = true := by
  unfold decodeGroupE
  split
  case h_3 =>
    refine (isUnimplWord_iff w).2 (.inr (.inr (.inr (.inr (.inl ⟨h, ?_⟩)))))
    simp_all [kkField_toNat]
  all_goals rfl

theorem decodeGroupF_wf {w : Word} (h : opField w = 15) : (decodeGroupF w).wf = true := by
  unfold decodeGroupF
  split
  case h_10 =>
    refine (isUnimplWord_iff w).2 (.inr (.inr (.inr (.inr (.inr ⟨h, ?_⟩)))))
    simp_all [kkField_toNat]
  all_goals rfl

theorem nField_ne_zero {w : Word} (h : nField w ≠ 0) : w.toNat % 16 ≠ 0 := by
  rw [← nField_val]
  exact fun e => h (Fin.ext e)

/-- R75 answers `UNIMPL` only for the words of R76. -/
theorem decodeWord_wf (w : Word) : (decodeWord w).wf = true := by
  unfold decodeWord
  split
  case h_1 => exact decodeGroup0_wf ‹_›
  case h_6 =>
    split
    · rfl
    · next hop hn => exact (isUnimplWord_iff w).2 (.inr (.inl ⟨hop, nField_ne_zero hn⟩))
  case h_9 => exact decodeGroup8_wf ‹_›
  case h_10 =>
    split
    · rfl
    · next hop hn => exact (isUnimplWord_iff w).2 (.inr (.inr (.inr (.inl ⟨hop, nField_ne_zero hn⟩))))
  case h_15 => exact decodeGroupE_wf ‹_›
  case h_16 =>
    have := opField_lt w
    exact decodeGroupF_wf (by grind)
  all_goals rfl

/-- The one word of `00EE`. -/
theorem eq_of_decodeWord_ret {w : Word} (h : decodeWord w = .ret) : w = 0x00EE := by
  rw [← encode_decodeWord w, h]
  rfl

theorem isUnimplWord_of_decodeWord {w w' : Word} (h : decodeWord w = .unimpl w') : isUnimplWord w' = true := by
  have := decodeWord_wf w
  rwa [h] at this

end Sys2Proof
end

section
/-! Frames: how `OnlyChanges` passes through each named update of the state. -/

namespace Sys2Proof.Machine

namespace OnlyChanges

theorem refl (s : State) (P : Part → Prop) : OnlyChanges s s P := fun p _ => by
  cases p <;> rfl

variable {s t : State} {P : Part → Prop}

theorem setReg (h : OnlyChanges s t P) {x : Reg} (hx : P (.reg x)) (b : Byte) : OnlyChanges s (t.setReg x b) P := by
  intro p hp
  cases p with
  | reg z =>
    have hz : z ≠ x := fun e => hp (e ▸ hx)
    have := h (.reg z) hp
    simpa [Part.Same, hz] using this
  | _ => exact h _ hp

theorem setRegs (h : OnlyChanges s t P) {f : Reg → Byte} (hf : ∀ z, ¬ P (.reg z) → f z = t.reg z) :
    OnlyChanges s (t.setRegs f) P := by
  intro p hp
  cases p with
  | reg z => exact (State.reg_setRegs t f z).trans ((hf z hp).trans (h (.reg z) hp))
  | _ => simpa [Part.Same] using h _ hp

theorem setI (h : OnlyChanges s t P) (hi : P .i) (a : Word) : OnlyChanges s (t.setI a) P := by
  intro p hp
  cases p with
  | i => exact absurd hi hp
  | _ => exact h _ hp

theorem setDt (h : OnlyChanges s t P) (hdt : P .dt) (b : Byte) : OnlyChanges s (t.setDt b) P := by
  intro p hp
  cases p with
  | dt => exact absurd hdt hp
  | _ => exact h _ hp

theorem setSt (h : OnlyChanges s t P) (hst : P .st) (b : Byte) : OnlyChanges s (t.setSt b) P := by
  intro p hp
  cases p with
  | st => exact absurd hst hp
  | _ => exact h _ hp

theorem setMem (h : OnlyChanges s t P) {m : Memory} (hm : ∀ a, ¬ P (.ram a) → m.read a = t.ram a) :
    OnlyChanges s (t.setMem m) P := by
  intro p hp
  cases p with
  | ram a => exact (hm a hp).trans (h (.ram a) hp)
  | _ => exact h _ hp

theorem setDisp (h : OnlyChanges s t P) {d : Display} (hd : ∀ px py, ¬ P (.pixel px py) → d.cell px py = t.pixel px py) :
    OnlyChanges s (t.setDisp d) P := by
  intro p hp
  cases p with
  | pixel px py => exact (hd px py hp).trans (h (.pixel px py) hp)
  | _ => exact h _ hp

theorem drawn (h : OnlyChanges s t P) (hr : P .rndCount) : OnlyChanges s t.drawn P := by
  intro p hp
  cases p with
  | rndCount => exact absurd hr hp
  | _ => exact h _ hp

theorem emit (h : OnlyChanges s t P) (he : P .events) (w : Word) : OnlyChanges s (t.emit w) P := by
  intro p hp
  cases p with
  | events => exact absurd he hp
  | _ => exact h _ hp

theorem raiseHalt (h : OnlyChanges s t P) (hh : P .halt) (c : HaltCause) : OnlyChanges s (t.raiseHalt c) P := by
  intro p hp
  cases p with
  | halt => exact absurd hh hp
  | _ => exact h _ hp

theorem stall (h : OnlyChanges s t P) (hm : P .mode) : OnlyChanges s t.stall P := by
  intro p hp
  cases p with
  | mode => exact absurd hm hp
  | _ => exact h _ hp

theorem goto (h : OnlyChanges s t P) (hpc : P .pc) (hm : P .mode) (a : Word) : OnlyChanges s (t.goto a) P := by
  intro p hp
  cases p with
  | pc => exact absurd hpc hp
  | mode => exact absurd hm hp
  | _ => exact h _ hp

/-- R100: a pop writes `sp` alone. -/
theorem popped (h : OnlyChanges s t P) (hsp : P .sp) (n : Fin 17) : OnlyChanges s { t with sp := n } P := by
  intro p hp
  cases p with
  | sp => exact absurd hsp hp
  | _ => exact h _ hp

/-- R102: a push writes one entry and `sp`. -/
theorem pushed (h : OnlyChanges s t P) {k : Fin 16} (hk : P (.stackEntry k)) (hsp : P .sp) (a : Word) (n : Fin 17) :
    OnlyChanges s { t with stack := t.stack.set k a, sp := n } P := by
  intro p hp
  cases p with
  | sp => exact absurd hsp hp
  | stackEntry j =>
    have hne : k.val ≠ j.val := fun e => hp (Fin.ext e ▸ hk)
    have := h (.stackEntry j) hp
    simpa [Part.Same, Vector.getElem_set, hne] using this
  | _ => exact h _ hp

end OnlyChanges

end Sys2Proof.Machine
end

section
/-! What each instruction can write (spec R21, R25 to R35, R50). -/

namespace Sys2Proof.Machine

/-- The registers that an instruction names as a destination, and VF where it receives a flag (R21). -/
def WritesReg (z : Reg) : Instr → Prop
  | .ldImm x _ | .addImm x _ | .ldReg x _ | .orReg x _ | .andReg x _ | .xorReg x _ | .rnd x _ | .ldVxDt x
  | .ldVxK x => z = x
  | .addReg x _ | .sub x _ | .shr x _ | .subn x _ | .shl x _ => z = x ∨ z = vf
  | .drw _ _ _ => z = vf
  | .loadRegs x => z ≤ x
  | _ => False

/-- The write table: the parts of the state that an instruction can change. -/
def Writes (i : Instr) : Part → Prop
  | .reg z => WritesReg z i
  | .ram _ => (∃ x, i = .ldB x) ∨ ∃ x, i = .storeRegs x
  | .pixel _ _ => i = .cls ∨ ∃ x y n, i = .drw x y n
  | .i => (∃ nnn, i = .ldI nnn) ∨ (∃ x, i = .addI x) ∨ (∃ x, i = .ldF x) ∨ (∃ x, i = .storeRegs x) ∨
      ∃ x, i = .loadRegs x
  | .sp | .halt => i = .ret ∨ ∃ nnn, i = .call nnn
  | .stackEntry _ => ∃ nnn, i = .call nnn
  | .dt => ∃ x, i = .ldDtVx x
  | .st => ∃ x, i = .ldStVx x
  | .events => ∃ w, i = .unimpl w
  | .rndCount => ∃ x kk, i = .rnd x kk
  | .pc | .mode => True
  | .key _ | .hostQueue => False

/-- Every instruction keeps to its line of the write table. -/
theorem exec_onlyChanges {i : Instr} {s t : State} (h : exec i s = .next t) : OnlyChanges s t (Writes i) := by
  have start := OnlyChanges.refl s (Writes i)
  cases i with
  | cls => cases h; exact (start.setDisp fun _ _ hp => absurd (.inl rfl) hp).goto trivial trivial _
  | ret =>
    by_cases hsp : s.sp.val = 0
    · cases (execRet_of_empty hsp).symm.trans h
      exact start.raiseHalt (.inl rfl) _
    · cases (execRet_of_pos hsp).symm.trans h
      exact (start.popped (.inl rfl) ⟨s.sp.val - 1, by omega⟩).goto trivial trivial s.stack[s.sp.val - 1]
  | call nnn =>
    by_cases hsp : s.sp.val < 16
    · cases (execCall_of_lt nnn hsp).symm.trans h
      exact (start.pushed (k := ⟨s.sp.val, hsp⟩) ⟨nnn, rfl⟩ (.inr ⟨nnn, rfl⟩) (s.pc + 2) ⟨s.sp.val + 1, by omega⟩).goto
        trivial trivial (nnnValue nnn)
    · cases (execCall_of_full nnn (by omega)).symm.trans h
      exact start.raiseHalt (.inr ⟨nnn, rfl⟩) _
  | jp _ | jpV0 _ | seImm _ _ | sneImm _ _ | seReg _ _ | sneReg _ _ | skp _ | sknp _ =>
    cases h; exact start.goto trivial trivial _
  | ldImm x _ | addImm x _ | ldReg x _ | orReg x _ | andReg x _ | xorReg x _ | ldVxDt x =>
    cases h; exact (start.setReg (x := x) rfl _).goto trivial trivial _
  | addReg x _ | sub x _ | shr x _ | subn x _ | shl x _ =>
    cases h; exact ((start.setReg (x := vf) (.inr rfl) _).setReg (x := x) (.inl rfl) _).goto trivial trivial _
  | rnd x kk => cases h; exact ((start.drawn ⟨x, kk, rfl⟩).setReg (x := x) rfl _).goto trivial trivial _
  | drw x y n =>
    cases h
    exact ((start.setReg (x := vf) rfl _).setDisp fun _ _ hp => absurd (.inr ⟨x, y, n, rfl⟩) hp).goto trivial trivial _
  | ldI nnn => cases h; exact (start.setI (.inl ⟨nnn, rfl⟩) _).goto trivial trivial _
  | addI x => cases h; exact (start.setI (.inr (.inl ⟨x, rfl⟩)) _).goto trivial trivial _
  | ldF x => cases h; exact (start.setI (.inr (.inr (.inl ⟨x, rfl⟩))) _).goto trivial trivial _
  | ldB x => cases h; exact (start.setMem fun _ hp => absurd (.inl ⟨x, rfl⟩) hp).goto trivial trivial _
  | storeRegs x =>
    cases h
    exact ((start.setMem fun _ hp => absurd (.inr ⟨x, rfl⟩) hp).setI (.inr (.inr (.inr (.inl ⟨x, rfl⟩)))) _).goto
      trivial trivial _
  | loadRegs x =>
    obtain rfl := Host.Outcome.next.inj h
    exact ((start.setRegs fun _ hz => if_neg hz).setI (.inr (.inr (.inr (.inr ⟨x, rfl⟩)))) _).goto trivial trivial _
  | ldVxK x =>
    cases hkey : s.lowestKey with
    | none => cases (execLdVxK_of_none x hkey).symm.trans h; exact start.stall trivial
    | some k =>
      cases (execLdVxK_of_some x hkey).symm.trans h
      exact (start.setReg (x := x) rfl _).goto trivial trivial _
  | ldDtVx x => cases h; exact (start.setDt ⟨x, rfl⟩ _).goto trivial trivial _
  | ldStVx x => cases h; exact (start.setSt ⟨x, rfl⟩ _).goto trivial trivial _
  | unimpl w => cases h; exact (start.emit ⟨w, rfl⟩ w).goto trivial trivial _

/-- Settles O19: each clause reads one line of the write table. -/
theorem onlyNamedInstructionsWrite : Obligations.OnlyNamedInstructionsWrite := by
  intro i s t h
  have frame := exec_onlyChanges h
  refine ⟨fun hB hS a => frame (.ram a) ?_, fun hC hD px py => frame (.pixel px py) ?_,
    fun hA hE hF hS hL => frame .i ?_, fun hR hC => ⟨frame .sp ?_, frame .halt ?_⟩,
    fun hC => Vector.ext fun k hk => frame (.stackEntry ⟨k, hk⟩) ?_, fun hD => frame .dt ?_, fun hS => frame .st ?_,
    fun hU => frame .events ?_, fun hR => frame .rndCount ?_, Vector.ext fun k hk => frame (.key ⟨k, hk⟩) id,
    frame .hostQueue id⟩
  all_goals simp [Writes, *]

/-- Settles O20: by the write table, what can write VF is one of the six or names register 15. -/
theorem onlySixWriteVfAsFlag : Obligations.OnlySixWriteVfAsFlag := by
  intro i s t h hAdd hSub hShr hSubn hShl hDrw hLd hAddImm hLdReg hOr hAnd hXor hRnd hDt hK hLoad
  refine exec_onlyChanges h (.reg vf) fun hw => ?_
  change WritesReg vf i at hw
  cases i with
  | addReg x y => exact hAdd x y rfl
  | sub x y => exact hSub x y rfl
  | shr x y => exact hShr x y rfl
  | subn x y => exact hSubn x y rfl
  | shl x y => exact hShl x y rfl
  | drw x y n => exact hDrw x y n rfl
  | ldImm x kk => exact hLd kk (by rw [hw])
  | addImm x kk => exact hAddImm kk (by rw [hw])
  | ldReg x y => exact hLdReg y (by rw [hw])
  | orReg x y => exact hOr y (by rw [hw])
  | andReg x y => exact hAnd y (by rw [hw])
  | xorReg x y => exact hXor y (by rw [hw])
  | rnd x kk => exact hRnd kk (by rw [hw])
  | ldVxDt x => exact hDt (by rw [hw])
  | ldVxK x => exact hK (by rw [hw])
  | loadRegs x => exact hLoad (by rw [Fin.le_antisymm hw (Fin.le_last x)])
  | _ => exact hw

end Sys2Proof.Machine
end

section
/-! What no instruction reads (spec R27, R29, R31, R33, R181). -/

namespace Sys2Proof.Machine

/-! ### The cases of a cycle, as equations -/

theorem cycle_of_halted {s : State} (h : s.halt ≠ .none) : cycle s = .next s := if_neg h

theorem cycle_of_fetch_none {s : State} (h : s.halt = .none) (hf : s.fetch? = none) :
    cycle s = .next (s.raiseHalt .fetchRange) := by
  rw [cycle, if_pos h, hf]

theorem cycle_of_fetch_some {s : State} {w : Word} (h : s.halt = .none) (hf : s.fetch? = some w) :
    cycle s = exec (decodeWord w) s := by
  rw [cycle, if_pos h, hf]

/-! ### What no instruction reads -/

/-- `u` agrees with `s` in everything that an instruction reads. -/
structure Alike (s u : State) : Prop where
  same : u = { s with
    stack := u.stack, st := u.st, halt := u.halt, mode := u.mode, events := u.events, hostQueue := u.hostQueue }
  stack : ∀ k : Fin 16, k.val < s.sp.val → u.stack[k] = s.stack[k]

/-- Of the parts that no instruction reads, those equal in `s` and `u` are equal in `t` and `w`; and `mode` is equal also
where `t` is not halted. -/
structure KeepsEqual (s u t w : State) : Prop where
  stack : u.stack = s.stack → w.stack = t.stack
  st : u.st = s.st → w.st = t.st
  halt : u.halt = s.halt → w.halt = t.halt
  mode : u.mode = s.mode ∨ t.halt = .none → w.mode = t.mode
  events : u.events = s.events → w.events = t.events
  hostQueue : u.hostQueue = s.hostQueue → w.hostQueue = t.hostQueue

namespace Alike

theorem fetch? {s u : State} (h : Alike s u) : u.fetch? = s.fetch? := by
  rw [h.same]
  rfl

theorem raiseHalt {s u : State} (h : Alike s u) (c : HaltCause) : Alike (s.raiseHalt c) (u.raiseHalt c) :=
  ⟨congrArg (State.raiseHalt · c) h.same, h.stack⟩

end Alike

theorem keepsEqual_raiseHalt (s u : State) {c : HaltCause} (hc : c ≠ .none) :
    KeepsEqual s u (s.raiseHalt c) (u.raiseHalt c) :=
  ⟨id, id, fun _ => rfl, fun h => h.resolve_right hc, id, id⟩

/-- Every instruction has a next state, and takes alike states to alike states. -/
theorem exec_alike (i : Instr) {s u : State} (h : Alike s u) :
    ∃ t w, exec i s = .next t ∧ exec i u = .next w ∧ Alike t w ∧ KeepsEqual s u t w := by
  have hraise := h.raiseHalt
  obtain ⟨hu, hk⟩ := h
  generalize u.stack = K, u.st = b, u.halt = c, u.mode = m, u.events = es, u.hostQueue = q at hu hk
  subst hu
  cases i with
  | ret =>
    by_cases hsp : s.sp.val = 0
    · exact ⟨_, _, execRet_of_empty hsp, execRet_of_empty hsp, hraise _, keepsEqual_raiseHalt _ _ nofun⟩
    · have htop : K[s.sp.val - 1] = s.stack[s.sp.val - 1] := hk ⟨s.sp.val - 1, by omega⟩ (by simp; omega)
      refine ⟨_, _, execRet_of_pos hsp, execRet_of_pos hsp, ⟨?_, fun k hlt => hk k (hlt.trans_le (Nat.sub_le _ _))⟩,
        ⟨id, id, id, fun _ => rfl, id, id⟩⟩
      simp [htop]
  | call nnn =>
    by_cases hsp : s.sp.val < 16
    · refine ⟨_, _, execCall_of_lt nnn hsp, execCall_of_lt nnn (by exact hsp), ⟨rfl, fun k hlt => ?_⟩,
        ⟨fun h => ?_, id, id, fun _ => rfl, id, id⟩⟩
      · have hle : k.val < s.sp.val + 1 := hlt
        simp only [Fin.getElem_fin, Vector.getElem_set]
        split
        · rfl
        · exact hk k (by omega)
      · exact congrArg (·.set s.sp.val (s.pc + 2)) h
    · have hfull : s.sp.val = 16 := by omega
      exact ⟨_, _, execCall_of_full nnn hfull, execCall_of_full nnn (by exact hfull), hraise _,
        keepsEqual_raiseHalt _ _ nofun⟩
  | ldVxK x =>
    cases hkey : s.lowestKey with
    | none =>
      exact ⟨_, _, execLdVxK_of_none x hkey, execLdVxK_of_none x (by exact hkey), ⟨rfl, hk⟩,
        ⟨id, id, id, fun _ => rfl, id, id⟩⟩
    | some k =>
      exact ⟨_, _, execLdVxK_of_some x hkey, execLdVxK_of_some x (by exact hkey), ⟨rfl, hk⟩,
        ⟨id, id, id, fun _ => rfl, id, id⟩⟩
  | ldStVx x => exact ⟨_, _, rfl, rfl, ⟨rfl, hk⟩, ⟨id, fun _ => rfl, id, fun _ => rfl, id, id⟩⟩
  | unimpl w =>
    exact ⟨_, _, rfl, rfl, ⟨rfl, hk⟩, ⟨id, id, id, fun _ => rfl, congrArg (· ++ [Diagnostic.mk s.pc w]), id⟩⟩
  | loadRegs x =>
    exact ⟨_, _, rfl, rfl, ⟨rfl, by simpa using hk⟩, by constructor <;> simp⟩
  | _ => exact ⟨_, _, rfl, rfl, ⟨rfl, hk⟩, ⟨id, id, id, fun _ => rfl, id, id⟩⟩

/-- A cycle takes alike states that agree on being halted to alike states. -/
theorem cycle_alike {s u : State} (h : Alike s u) (hhalt : u.halt = s.halt) :
    ∃ t w, cycle s = .next t ∧ cycle u = .next w ∧ Alike t w ∧ KeepsEqual s u t w := by
  by_cases hs : s.halt = .none
  · have hu := hhalt.trans hs
    cases hf : s.fetch? with
    | none =>
      exact ⟨_, _, cycle_of_fetch_none hs hf, cycle_of_fetch_none hu (h.fetch?.trans hf), h.raiseHalt _,
        keepsEqual_raiseHalt s u nofun⟩
    | some w =>
      rw [cycle_of_fetch_some hs hf, cycle_of_fetch_some hu (h.fetch?.trans hf)]
      exact exec_alike (decodeWord w) h
  · exact ⟨s, u, cycle_of_halted hs, cycle_of_halted (hhalt ▸ hs), h, ⟨id, id, id, fun h => h.resolve_right hs, id, id⟩⟩

/-- Settles O18: the two states agree in all but `mode`, so after the cycle too. -/
theorem modeIsNeverRead : Obligations.ModeIsNeverRead := by
  intro s m
  obtain ⟨t, u, ht, hu, halike, keeps⟩ := cycle_alike (s := s) (u := { s with mode := m }) ⟨rfl, fun _ _ => rfl⟩ rfl
  refine ⟨t, u, ht, hu, halike.same.trans ?_, fun h => keeps.mode (.inr h)⟩
  rw [keeps.stack rfl, keeps.st rfl, keeps.halt rfl, keeps.events rfl, keeps.hostQueue rfl]

/-- Settles O21: the two states are alike, and agree in the whole stack. -/
theorem unreadableState : Obligations.UnreadableState := by
  intro i s b h m es q
  obtain ⟨t, u, ht, hu, halike, keeps⟩ := exec_alike i (s := s)
    (u := { s with st := b, halt := h, mode := m, events := es, hostQueue := q }) ⟨rfl, fun _ _ => rfl⟩
  refine ⟨t, u, ht, hu, fun p hp => ?_⟩
  rw [halike.same, keeps.stack rfl]
  cases p with
  | st | halt | mode | events | hostQueue => exact absurd (by simp) hp
  | _ => rfl

/-! ### Stale stack entries (R27) -/

namespace SameButStaleStack

theorem alike {s u : State} (h : SameButStaleStack s u) : Alike s u := by
  obtain ⟨hu, hk⟩ := h
  exact ⟨by rw [hu], hk⟩

/-- What `s` and `u` agree on beside the stack, the states after them agree on too. -/
theorem of_alike {s u t w : State} (h : SameButStaleStack s u) (ha : Alike t w) (keeps : KeepsEqual s u t w) :
    SameButStaleStack t w := by
  obtain ⟨hu, -⟩ := h
  generalize u.stack = K at hu
  subst hu
  refine ⟨ha.same.trans ?_, ha.stack⟩
  rw [keeps.st rfl, keeps.halt rfl, keeps.mode (.inl rfl), keeps.events rfl, keeps.hostQueue rfl]

theorem refl (s : State) : SameButStaleStack s s := ⟨rfl, fun _ _ => rfl⟩

theorem setQueue {s u : State} (h : SameButStaleStack s u) (q : List HostEvent) :
    SameButStaleStack (s.setQueue q) (u.setQueue q) := ⟨congrArg (State.setQueue · q) h.1, h.2⟩

theorem tick {s u : State} (h : SameButStaleStack s u) : SameButStaleStack (tick s) (tick u) :=
  ⟨congrArg Machine.tick h.1, h.2⟩

theorem keySet {s u : State} (h : SameButStaleStack s u) (k : Fin 16) (p : Bool) :
    SameButStaleStack (keySet k p s) (keySet k p u) := ⟨congrArg (Machine.keySet k p) h.1, h.2⟩

theorem resetWith {s u : State} (h : SameButStaleStack s u) (rom : List Byte) :
    SameButStaleStack (resetWith rom s) (resetWith rom u) := by
  rw [h.1]
  exact refl _

end SameButStaleStack

theorem hostEvent_sameButStaleStack (e : HostEvent) {s u : State} (h : SameButStaleStack s u) :
    ∃ t w, hostEvent e s = .next t ∧ hostEvent e u = .next w ∧ SameButStaleStack t w := by
  cases e with
  | reset rom => exact ⟨_, _, rfl, rfl, h.resetWith rom⟩
  | tick => exact ⟨_, _, rfl, rfl, h.tick⟩
  | keySet k p => exact ⟨_, _, rfl, rfl, h.keySet k p⟩
  | cycle =>
    have hhalt : u.halt = s.halt := by rw [h.1]
    obtain ⟨t, w, ht, hw, halike, keeps⟩ := cycle_alike h.alike hhalt
    exact ⟨t, w, ht, hw, h.of_alike halike keeps⟩

theorem nextEvent_sameButStaleStack {s u : State} (h : SameButStaleStack s u) :
    (nextEvent u).1 = (nextEvent s).1 ∧ SameButStaleStack (nextEvent s).2 (nextEvent u).2 := by
  have hq : u.hostQueue = s.hostQueue := by rw [h.1]
  unfold nextEvent
  rw [hq]
  cases s.hostQueue with
  | nil => exact ⟨rfl, h⟩
  | cons e q => exact ⟨rfl, h.setQueue q⟩

/-- Settles O22: both states take the same event, and each event keeps the relation. -/
theorem staleStackNeverRead : Obligations.StaleStackNeverRead := by
  intro s u t h ht
  obtain ⟨hevent, hstate⟩ := nextEvent_sameButStaleStack h
  obtain ⟨t', w, ht', hw, hsame⟩ := hostEvent_sameButStaleStack (nextEvent s).1 hstate
  cases ht.symm.trans ht'
  exact ⟨w, (congrArg (hostEvent · _) hevent).trans hw, hsame⟩

end Sys2Proof.Machine
end

section
/-! The invariant holds at reset and every step keeps it (spec R40). -/

namespace Sys2Proof.Machine

namespace State.Inv

variable {s : State}

/-! What the invariant speaks of is untouched by the host's other events. -/

theorem setQueue (h : s.Inv) (q : List HostEvent) : (s.setQueue q).Inv :=
  ⟨h.ram, h.pc, h.returns, h.waiting, h.cause, h.events⟩

theorem tick (h : s.Inv) : (tick s).Inv := ⟨h.ram, h.pc, h.returns, h.waiting, h.cause, h.events⟩

theorem keySet (h : s.Inv) (k : Fin 16) (p : Bool) : (keySet k p s).Inv :=
  ⟨h.ram, h.pc, h.returns, h.waiting, h.cause, h.events⟩

/-- A fault keeps the invariant when the state explains its cause. -/
theorem raiseHalt (h : s.Inv) {c : HaltCause} (hc : (s.raiseHalt c).HaltExplained) : (s.raiseHalt c).Inv :=
  ⟨h.ram, h.pc, h.returns, h.waiting, hc, h.events⟩

end State.Inv

theorem haltExplained_of_none {s : State} (h : s.halt = .none) : s.HaltExplained := by
  rw [State.HaltExplained, h]
  trivial

/-- After any Reset the invariant holds, as far as the events emitted before it allow. -/
theorem resetWith_inv (rom : List Byte) {s : State}
    (h : ∀ e ∈ s.events, e.addr.toNat ≤ 4094 ∧ isUnimplWord e.word = true) : (resetWith rom s).Inv where
  ram := by
    show (if rom.length ≤ Config.maxRom then Memory.image Config.progBase rom else []).wf = true
    split
    · next hfit => exact Memory.image_wf rom hfit
    · rfl
  pc := show (0x200 : Word).toNat ≤ 0x10FE by decide
  returns k hk := absurd hk (Nat.not_lt_zero _)
  waiting := nofun
  cause := by
    by_cases hfit : rom.length ≤ Config.maxRom
    · exact haltExplained_of_none (if_pos hfit)
    · simp [State.HaltExplained, resetWith, hfit, State.reset, State.ram]
  events := h

/-- Settles O16: `State.reset` is Reset with an empty ROM (log entry 6). -/
theorem resetHasInv : Obligations.ResetHasInv :=
  resetWith_inv [] (s := State.reset) nofun

/-! ### The instructions that go on without touching the stack, `halt` or the events -/

theorem nnnValue_toNat (nnn : Addr) : (nnnValue nnn).toNat = nnn.toNat := by
  have := nnn.isLt
  simp only [nnnValue, BitVec.toNat_setWidth]
  omega

theorem nnnValue_le (nnn : Addr) : (nnnValue nnn).toNat ≤ 0x10FE := by
  have := nnn.isLt
  rw [nnnValue_toNat]
  omega

/-- R108, R40: the largest address a jump can reach. -/
theorem indexedTarget_le (nnn : Addr) (a : Byte) : (indexedTarget nnn a).toNat ≤ 0x10FE := by
  have := nnn.isLt
  have := a.isLt
  simp only [indexedTarget, BitVec.toNat_add, nnnValue_toNat, BitVec.toNat_setWidth]
  omega

theorem add_two_toNat {a : Word} (h : a.toNat ≤ 4094) : (a + 2).toNat = a.toNat + 2 := by
  bv_omega

theorem add_four_toNat {a : Word} (h : a.toNat ≤ 4094) : (a + 4).toNat = a.toNat + 4 := by
  bv_omega

/-- `t` goes on from `s` with the next instruction: only the address it goes to, the registers, the display and RAM in
canonical form can differ from `s`. -/
structure GoesOn (s t : State) : Prop where
  ram : s.mem.wf = true → t.mem.wf = true
  pc : s.pc.toNat ≤ 4094 → t.pc.toNat ≤ 0x10FE
  sp : t.sp = s.sp
  stack : t.stack = s.stack
  mode : t.mode = .running
  halt : t.halt = s.halt
  events : t.events = s.events

theorem GoesOn.inv {s t : State} (h : GoesOn s t) (hs : s.Inv) (hhalt : s.halt = .none) (hpc : s.pc.toNat ≤ 4094) :
    t.Inv where
  ram := h.ram hs.ram
  pc := h.pc hpc
  returns := by
    rw [h.sp, h.stack]
    exact hs.returns
  waiting hw := by
    rw [h.mode] at hw
    cases hw
  cause := haltExplained_of_none (h.halt.trans hhalt)
  events := by
    rw [h.events]
    exact hs.events

theorem advance_pc_le {s : State} (h : s.pc.toNat ≤ 4094) : (s.pc + 2).toNat ≤ 0x10FE := by
  rw [add_two_toNat h]
  omega

theorem skipIf_pc_le {s : State} (c : Bool) (h : s.pc.toNat ≤ 4094) : (s.skipIf c).pc.toNat ≤ 0x10FE := by
  cases c
  · exact advance_pc_le h
  · show (s.pc + 4).toNat ≤ 0x10FE
    rw [add_four_toNat h]
    omega

/-- Every instruction but four goes on. -/
theorem exec_goesOn {i : Instr} {s t : State} (h : exec i s = .next t) (hret : i ≠ .ret) (hcall : ∀ nnn, i ≠ .call nnn)
    (hkey : ∀ x, i ≠ .ldVxK x) (hunimpl : ∀ w, i ≠ .unimpl w) : GoesOn s t := by
  cases i with
  | ret => exact absurd rfl hret
  | call nnn => exact absurd rfl (hcall nnn)
  | ldVxK x => exact absurd rfl (hkey x)
  | unimpl w => exact absurd rfl (hunimpl w)
  | jp nnn => cases h; exact ⟨id, fun _ => nnnValue_le nnn, rfl, rfl, rfl, rfl, rfl⟩
  | jpV0 nnn => cases h; exact ⟨id, fun _ => indexedTarget_le nnn _, rfl, rfl, rfl, rfl, rfl⟩
  | seImm _ _ | sneImm _ _ | seReg _ _ | sneReg _ _ | skp _ | sknp _ =>
    cases h; exact ⟨id, skipIf_pc_le _, rfl, rfl, rfl, rfl, rfl⟩
  | ldB x => cases h; exact ⟨Memory.storeFrom_wf _ _ _, advance_pc_le, rfl, rfl, rfl, rfl, rfl⟩
  | storeRegs x => cases h; exact ⟨Memory.storeFrom_wf _ _ _, advance_pc_le, rfl, rfl, rfl, rfl, rfl⟩
  | loadRegs x =>
    obtain rfl := Host.Outcome.next.inj h
    exact ⟨by simp, by simpa using advance_pc_le, by simp, by simp, by simp, by simp, by simp⟩
  | _ => cases h; exact ⟨id, advance_pc_le, rfl, rfl, rfl, rfl, rfl⟩

/-! ### The four instructions that do more -/

section
variable {s t : State} (hs : s.Inv) (hhalt : s.halt = .none)
include hs hhalt

/-- R100, R173: a return goes to an entry in use; an underflow is explained by `sp` and the word at `pc`. -/
theorem execRet_inv (hfetch : s.fetch? = some 0x00EE) (h : execRet s = .next t) : t.Inv := by
  by_cases hsp : s.sp.val = 0
  · cases (execRet_of_empty hsp).symm.trans h
    exact hs.raiseHalt ⟨hsp, hfetch⟩
  · cases (execRet_of_pos hsp).symm.trans h
    exact {
      ram := hs.ram
      pc := (hs.returns ⟨s.sp.val - 1, by omega⟩ (by simp; omega)).2.trans (by decide)
      returns := fun k hk => hs.returns k (hk.trans_le (Nat.sub_le _ _))
      waiting := nofun
      cause := haltExplained_of_none hhalt
      events := hs.events }

variable (hpc : s.pc.toNat ≤ 4094)
include hpc

/-- R102, R174: a call pushes `A + 2`; an overflow is explained by `sp` and the word at `pc`. -/
theorem execCall_inv {w : Word} {nnn : Addr} (hfetch : s.fetch? = some w) (hw : decodeWord w = .call nnn)
    (h : execCall nnn s = .next t) : t.Inv := by
  by_cases hsp : s.sp.val < 16
  · cases (execCall_of_lt nnn hsp).symm.trans h
    exact {
      ram := hs.ram
      pc := nnnValue_le nnn
      returns := fun k hk => by
        have hle : k.val < s.sp.val + 1 := hk
        simp only [Fin.getElem_fin, Vector.getElem_set]
        split
        · rw [add_two_toNat hpc]
          omega
        · exact hs.returns k (by omega)
      waiting := nofun
      cause := haltExplained_of_none hhalt
      events := hs.events }
  · have hfull : s.sp.val = 16 := by omega
    cases (execCall_of_full nnn hfull).symm.trans h
    exact hs.raiseHalt ⟨hfull, w, nnn, hfetch, hw⟩

/-- R162: a stall leaves `pc` at the `Fx0A`. -/
theorem execLdVxK_inv {w : Word} {x : Reg} (hfetch : s.fetch? = some w) (hw : decodeWord w = .ldVxK x)
    (h : execLdVxK x s = .next t) : t.Inv := by
  cases hkey : s.lowestKey with
  | none =>
    cases (execLdVxK_of_none x hkey).symm.trans h
    exact ⟨hs.ram, hs.pc, hs.returns, fun _ => ⟨w, x, hfetch, hw⟩, hs.cause, hs.events⟩
  | some k =>
    cases (execLdVxK_of_some x hkey).symm.trans h
    have hgo : GoesOn s (s.setReg x (BitVec.ofNat 8 k.val)).advance :=
      ⟨id, advance_pc_le, rfl, rfl, rfl, rfl, rfl⟩
    exact hgo.inv hs hhalt hpc

/-- R97, R176: the event names the address of the fetch and a word that is not an instruction. -/
theorem execUnimpl_inv {w : Word} (hw : isUnimplWord w = true) (h : execUnimpl w s = .next t) : t.Inv := by
  cases h
  exact {
    ram := hs.ram
    pc := advance_pc_le hpc
    returns := hs.returns
    waiting := nofun
    cause := haltExplained_of_none hhalt
    events := fun e he => by
      obtain he | he := List.mem_append.1 he
      · exact hs.events e he
      · rw [List.mem_singleton.1 he]
        exact ⟨hpc, hw⟩ }

/-- The instruction at `pc` keeps the invariant. -/
theorem exec_inv {w : Word} (hfetch : s.fetch? = some w) (h : exec (decodeWord w) s = .next t) : t.Inv := by
  generalize hi : decodeWord w = i at h
  cases i with
  | ret => exact execRet_inv hs hhalt (eq_of_decodeWord_ret hi ▸ hfetch) h
  | call nnn => exact execCall_inv hs hhalt hpc hfetch hi h
  | ldVxK x => exact execLdVxK_inv hs hhalt hpc hfetch hi h
  | unimpl w' => exact execUnimpl_inv hs hhalt hpc (isUnimplWord_of_decodeWord hi) h
  | _ => exact (exec_goesOn h nofun nofun nofun nofun).inv hs hhalt hpc

end

/-- A cycle keeps the invariant. -/
theorem cycle_inv {s t : State} (hs : s.Inv) (h : cycle s = .next t) : t.Inv := by
  obtain ⟨-, rfl⟩ | ⟨-, hpc, rfl⟩ | ⟨hhalt, hpc, hexec⟩ := cycle_cases h
  · exact hs
  · exact hs.raiseHalt hpc
  · exact exec_inv hs hhalt (by omega) (State.fetch?_of_lt hpc) hexec

/-- Settles O17: one of the host's four events, each of which keeps the invariant. -/
theorem stepKeepsInv : Obligations.StepKeepsInv := by
  intro s t hs h
  obtain ⟨rom, q, -, rfl⟩ | ⟨q, -, rfl⟩ | ⟨k, p, q, -, rfl⟩ | ⟨-, h⟩ | ⟨q, -, h⟩ := step_cases h
  · exact resetWith_inv rom hs.events
  · exact (hs.setQueue q).tick
  · exact (hs.setQueue q).keySet k p
  · exact cycle_inv hs h
  · exact cycle_inv (hs.setQueue q) h

end Sys2Proof.Machine
end

section
/-! Fetch, the bytes of a word and the bytes an instruction stores (spec R51, R52, R55, R64, R70, R91, R144). -/

namespace Sys2Proof.Machine

/-! ### A word from its two bytes -/

/-- Settles O7: a list of two bytes or more is decoded by its first two; the shorter lists are `[]` and `[b]`. -/
theorem decodeBigEndian : Obligations.DecodeBigEndian := by
  refine ⟨fun b0 b1 rest => ?_, fun bs h => ?_⟩
  · rw [decode_cons_cons, word_eq]
  · match bs, h with
    | [], _ => rfl
    | [_], _ => rfl

/-- R51, R52: a fetch inside RAM, with the word written as the sum of its bytes. -/
theorem State.fetch?_of_le {s : State} (h : s.pc.toNat ≤ 4094) : s.fetch? = some (BitVec.ofNat 16
    ((s.ram s.pc.toNat).toNat * 256 + (s.ram (s.pc.toNat + 1)).toNat)) := by
  rw [State.fetch?_of_lt (by omega), word_eq]

/-! ### One cycle, implicit or at the head of the host's queue -/

/-- An explicit Cycle is taken off the queue, and the cycle runs. -/
theorem step_of_cycle {s : State} {q : List HostEvent} (h : s.hostQueue = .cycle :: q) :
    step s = cycle (s.setQueue q) := step_of_event h

/-- R91: a cycle of a machine that is not halted and can fetch is the instruction at `pc`. -/
theorem cycle_of_le {s : State} (hhalt : s.halt = .none) (hpc : s.pc.toNat ≤ 4094) :
    cycle s = exec (decodeWord (BitVec.ofNat 16
      ((s.ram s.pc.toNat).toNat * 256 + (s.ram (s.pc.toNat + 1)).toNat))) s :=
  cycle_of_fetch_some hhalt (State.fetch?_of_le hpc)

/-- R172: a cycle of a machine that is not halted and cannot fetch takes the fault. -/
theorem cycle_of_ge {s : State} (hhalt : s.halt = .none) (hpc : 4095 ≤ s.pc.toNat) :
    cycle s = .next (s.raiseHalt .fetchRange) :=
  cycle_of_fetch_none hhalt (State.fetch?_of_ge hpc)

/-- Settles O8: either way the step is one cycle, and taking a Cycle off the queue leaves `halt`, `pc` and RAM. -/
theorem stepRunsDecodedInstruction : Obligations.StepRunsDecodedInstruction := by
  intro s hhalt hpc
  exact ⟨fun hq => (step_of_empty hq).trans (cycle_of_le hhalt hpc),
    fun q hq => (step_of_cycle hq).trans (cycle_of_le (s := s.setQueue q) hhalt hpc)⟩

/-- The host's queue is one part of the state. -/
theorem OnlyChanges.setQueue {s t : State} {P : Part → Prop} (h : OnlyChanges s t P) (hq : P .hostQueue)
    (q : List HostEvent) : OnlyChanges s (t.setQueue q) P := by
  intro p hp
  cases p with
  | hostQueue => exact absurd hq hp
  | _ => exact h _ hp

/-- Settles O9: from 4095 on the cycle is the fetch fault, whose frame is `halt`, and the queue for an explicit Cycle. -/
theorem fetchRange : Obligations.FetchRange := by
  intro s
  refine ⟨State.fetch?_of_le, fun hpc hhalt => ⟨fun hq => ?_, fun q hq => ?_⟩⟩
  · exact ⟨s.raiseHalt .fetchRange, (step_of_empty hq).trans (cycle_of_ge hhalt hpc), rfl, rfl,
      (OnlyChanges.refl s (· = .halt)).raiseHalt rfl _⟩
  · exact ⟨(s.setQueue q).raiseHalt .fetchRange, (step_of_cycle hq).trans (cycle_of_ge hhalt hpc), rfl, rfl, rfl,
      ((OnlyChanges.refl s _).setQueue (by simp) q).raiseHalt (by simp) _⟩

/-! ### Data addresses and the bytes stored there -/

/-- R55: the sum `i + k`, wrapped to RAM. -/
theorem ea_toNat (i : Word) (k : Nat) : (ea i k).toNat = (i.toNat + k) % 4096 := BitVec.toNat_ofNat _ 12

/-- Settles O24: the value of a 12-bit sum, and the bound of a 12-bit address. -/
theorem effectiveAddressWraps : Obligations.EffectiveAddressWraps := fun i k => ⟨ea_toNat i k, ea_lt i k⟩

/-- R144: after `Fx55`, the byte at `ea(k)` is register `k`, for every `k` up to `x`. -/
theorem Memory.read_storeFrom_regsUpTo {s : State} {x k : Reg} (hm : s.mem.wf = true) (hk : k ≤ x) :
    (s.mem.storeFrom s.i 0 (s.regsUpTo x)).read (ea s.i k.val).toNat = s.reg k := by
  have hlen := s.regsUpTo_length x
  have hle : k.val ≤ x.val := hk
  have hstored := (read_storeFrom s.i (s.regsUpTo x) 0 hm (by omega)).1 k.val (by omega)
  rwa [Nat.zero_add, State.regsUpTo_getElem] at hstored

/-- Settles O23: the two bytes fetched are the ones stored at `ea(k)` and `ea(k + 1)`. -/
theorem storedBytesAreFetched : Obligations.StoredBytesAreFetched := by
  intro s x k p hm hk hp hlow hhigh
  have hkval : (Fin.ofNat 16 k).val = k := Nat.mod_eq_of_lt (by omega)
  have hksucc : (Fin.ofNat 16 (k + 1)).val = k + 1 := Nat.mod_eq_of_lt (by omega)
  have hbyte0 := Memory.read_storeFrom_regsUpTo (x := x) (k := Fin.ofNat 16 k) hm (Fin.le_def.2 (by omega))
  have hbyte1 := Memory.read_storeFrom_regsUpTo (x := x) (k := Fin.ofNat 16 (k + 1)) hm (Fin.le_def.2 (by omega))
  rw [hkval, hlow] at hbyte0
  rw [hksucc, hhigh] at hbyte1
  refine ⟨_, rfl, (State.fetch?_of_le hp).trans ?_⟩
  rw [← hbyte0, ← hbyte1]
  rfl

end Sys2Proof.Machine
end

section
/-! The decoder against the opcode map (spec R71, R74, R75, R76). The encoding of an instruction matches its own row, no
two rows match one word, and a word is the encoding of what it decodes to: so the procedure of R75 and the table of R74
select the same row. -/

namespace Sys2Proof

/-! ### The rows of the opcode map (R74) -/

/-- Two rows that ask for different values of the bits both of them look at match no common word. -/
theorem OpcodeRow.not_accepts_both {r q : OpcodeRow} (h : r.pattern &&& q.mask ≠ q.pattern &&& r.mask) (w : Word) :
    ¬ (r.accepts w = true ∧ q.accepts w = true) := by
  rintro ⟨hr, hq⟩
  have hr : w &&& r.mask = r.pattern := eq_of_beq hr
  have hq : w &&& q.mask = q.pattern := eq_of_beq hq
  rw [← hr, ← hq] at h
  exact h (by ac_rfl)

/-- Settles O3: any two rows differ in a bit that both masks keep. -/
theorem opcodeRowsDisjoint : Obligations.OpcodeRowsDisjoint := by
  have differ : opcodeRows.Pairwise fun r q => r.pattern &&& q.mask ≠ q.pattern &&& r.mask := by decide
  exact differ.imp OpcodeRow.not_accepts_both

/-- At most one row matches a word. -/
theorem OpcodeRow.eq_of_accepts {r q : OpcodeRow} {w : Word} (hr : r ∈ opcodeRows) (hq : q ∈ opcodeRows)
    (hrw : r.accepts w = true) (hqw : q.accepts w = true) : r = q := by
  have symm : Std.Symm fun r q : OpcodeRow => ∀ w, ¬ (r.accepts w = true ∧ q.accepts w = true) :=
    ⟨fun _ _ h w hw => h w hw.symm⟩
  by_contra hne
  exact opcodeRowsDisjoint.forall hr hq hne w ⟨hrw, hqw⟩

/-- A row is known by its mnemonic. -/
theorem OpcodeRow.eq_of_mnemonic_eq {r q : OpcodeRow} (hr : r ∈ opcodeRows) (hq : q ∈ opcodeRows)
    (h : r.mnemonic = q.mnemonic) : r = q := by
  have distinct : (opcodeRows.map OpcodeRow.mnemonic).Nodup := by decide
  exact List.inj_on_of_nodup_map distinct hr hq h

theorem OpcodeRow.mnemonic_ne_unimpl {r : OpcodeRow} (hr : r ∈ opcodeRows) : r.mnemonic ≠ "UNIMPL" := by
  have named : ∀ r ∈ opcodeRows, r.mnemonic ≠ "UNIMPL" := by decide
  exact named r hr

/-- R81: the default row stands aside for any other. -/
theorem isUnimplWord_iff_forall (w : Word) : isUnimplWord w = true ↔ ∀ r ∈ opcodeRows, r.accepts w = false := by
  simp [isUnimplWord]

/-- The encoding of each instruction matches the instruction's own row. -/
theorem encodesItsRow : ∀ i : Instr, Laws.EncodesItsRow.Statement i
  | .cls => Laws.EncodesItsRow.cls
  | .ret => Laws.EncodesItsRow.ret
  | .jp nnn => Laws.EncodesItsRow.jp nnn
  | .call nnn => Laws.EncodesItsRow.call nnn
  | .seImm x kk => Laws.EncodesItsRow.seImm x kk
  | .sneImm x kk => Laws.EncodesItsRow.sneImm x kk
  | .seReg x y => Laws.EncodesItsRow.seReg x y
  | .sneReg x y => Laws.EncodesItsRow.sneReg x y
  | .ldImm x kk => Laws.EncodesItsRow.ldImm x kk
  | .addImm x kk => Laws.EncodesItsRow.addImm x kk
  | .ldReg x y => Laws.EncodesItsRow.ldReg x y
  | .orReg x y => Laws.EncodesItsRow.orReg x y
  | .andReg x y => Laws.EncodesItsRow.andReg x y
  | .xorReg x y => Laws.EncodesItsRow.xorReg x y
  | .addReg x y => Laws.EncodesItsRow.addReg x y
  | .sub x y => Laws.EncodesItsRow.sub x y
  | .shr x y => Laws.EncodesItsRow.shr x y
  | .subn x y => Laws.EncodesItsRow.subn x y
  | .shl x y => Laws.EncodesItsRow.shl x y
  | .ldI nnn => Laws.EncodesItsRow.ldI nnn
  | .jpV0 nnn => Laws.EncodesItsRow.jpV0 nnn
  | .rnd x kk => Laws.EncodesItsRow.rnd x kk
  | .drw x y n => Laws.EncodesItsRow.drw x y n
  | .skp x => Laws.EncodesItsRow.skp x
  | .sknp x => Laws.EncodesItsRow.sknp x
  | .ldVxDt x => Laws.EncodesItsRow.ldVxDt x
  | .ldDtVx x => Laws.EncodesItsRow.ldDtVx x
  | .ldStVx x => Laws.EncodesItsRow.ldStVx x
  | .addI x => Laws.EncodesItsRow.addI x
  | .ldF x => Laws.EncodesItsRow.ldF x
  | .ldB x => Laws.EncodesItsRow.ldB x
  | .storeRegs x => Laws.EncodesItsRow.storeRegs x
  | .loadRegs x => Laws.EncodesItsRow.loadRegs x
  | .ldVxK x => Laws.EncodesItsRow.ldVxK x
  | .unimpl w => Laws.EncodesItsRow.unimpl w

/-! ### What a word decodes to (R75, R76) -/

theorem eq_unimpl_of_mnemonic {i : Instr} (h : i.mnemonic = "UNIMPL") : ∃ w, i = .unimpl w := by
  cases i with
  | unimpl w => exact ⟨w, rfl⟩
  | _ => exact absurd h (by simp [Instr.mnemonic])

/-- A word is `UNIMPL`, or it is matched by the row of the instruction that it decodes to. -/
theorem decodeWord_cases (w : Word) : decodeWord w = .unimpl w ∨
    ∃ r ∈ opcodeRows, r.mnemonic = (decodeWord w).mnemonic ∧ r.accepts w = true := by
  have hw := encode_decodeWord w
  obtain hm | hrow := encodesItsRow (decodeWord w)
  · obtain ⟨w', hi⟩ := eq_unimpl_of_mnemonic hm
    rw [hi] at hw
    exact .inl (hi.trans (congrArg Instr.unimpl hw))
  · rw [hw] at hrow
    exact .inr hrow

/-- A word decodes to `UNIMPL` exactly when no row matches it (R81). -/
theorem decodeWord_eq_unimpl_iff (w : Word) : decodeWord w = .unimpl w ↔ isUnimplWord w = true := by
  refine ⟨isUnimplWord_of_decodeWord, fun h => (decodeWord_cases w).resolve_right ?_⟩
  rintro ⟨r, hr, -, hrw⟩
  simp [(isUnimplWord_iff_forall w).1 h r hr] at hrw

/-- Settles O4: the row of the decoded instruction matches the word, and no other row does. -/
theorem decodeFollowsOpcodeMap : Obligations.DecodeFollowsOpcodeMap := by
  intro w r hr
  obtain hun | ⟨q, hq, hname, hqw⟩ := decodeWord_cases w
  · have hno := (isUnimplWord_iff_forall w).1 ((decodeWord_eq_unimpl_iff w).1 hun) r hr
    rw [hun, hno]
    exact iff_of_false (OpcodeRow.mnemonic_ne_unimpl hr).symm Bool.false_ne_true
  · rw [← hname]
    constructor
    · intro h
      rwa [← OpcodeRow.eq_of_mnemonic_eq hq hr h]
    · intro h
      rw [OpcodeRow.eq_of_accepts hq hr hqw h]

/-- Settles O5: the words that match no row, with the major op code written as a quotient. -/
theorem unimplementedSpace : Obligations.UnimplementedSpace := by
  intro w
  rw [decodeWord_eq_unimpl_iff, isUnimplWord_iff, opField_eq, Nat.div_eq_zero_iff_lt (by decide)]

/-- Settles O2: what a word decodes to is well formed, and no bit of the word is lost. -/
theorem encodeOfDecode : Obligations.EncodeOfDecode := fun w => ⟨decodeWord_wf w, encode_decodeWord w⟩

/-- Settles O6: each word is decoded by evaluation. -/
theorem specWordsDecode : Obligations.SpecWordsDecode := by
  unfold Obligations.SpecWordsDecode
  decide

/-! ### Decoding an encoding (R71, R75) -/

/-- Settles O1: the decoder reads back the fields that the format of the encoding laid down; the word of an `unimpl`
matches no row. -/
theorem decodeOfEncode : Obligations.DecodeOfEncode := by
  intro i hi
  cases i with
  | cls | ret => rfl
  | jp nnn | call nnn | ldI nnn | jpV0 nnn =>
    simp [encode, decodeWord, opField_encodeNNN, nnnField_encodeNNN]
  | seImm x kk | sneImm x kk | ldImm x kk | addImm x kk | rnd x kk =>
    simp [encode, decodeWord, opField_encodeXKK, xField_encodeXKK, kkField_encodeXKK]
  | seReg x y | sneReg x y | drw x y n =>
    simp [encode, decodeWord, opField_encodeXYN, xField_encodeXYN, yField_encodeXYN, nField_encodeXYN]
  | ldReg x y | orReg x y | andReg x y | xorReg x y | addReg x y | sub x y | shr x y | subn x y | shl x y =>
    simp [encode, decodeWord, decodeGroup8, opField_encodeXYN, xField_encodeXYN, yField_encodeXYN, nField_encodeXYN]
  | skp x | sknp x =>
    simp [encode, decodeWord, decodeGroupE, opField_encodeXKK, xField_encodeXKK, kkField_encodeXKK]
  | ldVxDt x | ldDtVx x | ldStVx x | addI x | ldF x | ldB x | storeRegs x | loadRegs x | ldVxK x =>
    simp [encode, decodeWord, decodeGroupF, opField_encodeXKK, xField_encodeXKK, kkField_encodeXKK]
  | unimpl w => exact (decodeWord_eq_unimpl_iff w).2 hi

end Sys2Proof
end

section
/-! Every instruction and every step answers a next state (spec R77, R90, R98). -/

namespace Sys2Proof.Machine

/-- No instruction faults and none is refused: a return, a call and the key wait answer in both of their cases. -/
theorem exec_completes (i : Instr) (s : State) : ∃ t, exec i s = .next t := by
  cases i with
  | ret =>
    by_cases hsp : s.sp.val = 0
    · exact ⟨_, execRet_of_empty hsp⟩
    · exact ⟨_, execRet_of_pos hsp⟩
  | call nnn =>
    by_cases hsp : s.sp.val < 16
    · exact ⟨_, execCall_of_lt nnn hsp⟩
    · exact ⟨_, execCall_of_full nnn (by omega)⟩
  | ldVxK x =>
    cases hkey : s.lowestKey with
    | none => exact ⟨_, execLdVxK_of_none x hkey⟩
    | some k => exact ⟨_, execLdVxK_of_some x hkey⟩
  | _ => exact ⟨_, rfl⟩

theorem cycle_completes (s : State) : ∃ t, cycle s = .next t := by
  by_cases hhalt : s.halt = .none
  · cases hf : s.fetch? with
    | none => exact ⟨_, cycle_of_fetch_none hhalt hf⟩
    | some w =>
      rw [cycle_of_fetch_some hhalt hf]
      exact exec_completes _ s
  · exact ⟨s, cycle_of_halted hhalt⟩

theorem hostEvent_completes (e : HostEvent) (s : State) : ∃ t, hostEvent e s = .next t := by
  cases e with
  | cycle => exact cycle_completes s
  | _ => exact ⟨_, rfl⟩

/-- Settles O11: a step is the reaction to one event, and to a Cycle it is a halted machine's, the fetch fault or one
instruction. -/
theorem everyStepCompletes : Obligations.EveryStepCompletes :=
  ⟨exec_completes, fun s => hostEvent_completes (nextEvent s).1 (nextEvent s).2⟩

end Sys2Proof.Machine
end

section
/-! The host's Tick and KeySet, and the words that are not instructions (spec R94, R95, R97, R176). -/

namespace Sys2Proof.Machine

/-- R35: each key is a part of the state by itself. -/
theorem OnlyChanges.setKey {s t : State} {P : Part → Prop} (h : OnlyChanges s t P) {k : Fin 16} (hk : P (.key k))
    (pressed : Bool) : OnlyChanges s (t.setKey k pressed) P := by
  intro p hp
  cases p with
  | key j =>
    have hj : j ≠ k := fun e => hp (e ▸ hk)
    exact (State.keyDown_setKey t k j pressed).trans ((if_neg hj).trans (h (.key j) hp))
  | _ => exact h _ hp

/-- Settles O12: each timer is counted down once, and the frame follows the three updates. -/
theorem tickCountsDown : Obligations.TickCountsDown := by
  intro s q hq
  refine ⟨tick (s.setQueue q), step_of_event hq, countDown_toNat s.dt, countDown_toNat s.st, rfl, ?_⟩
  exact (((OnlyChanges.refl s _).setQueue (by simp) q).setDt (by simp) _).setSt (by simp) _

/-- Settles O13: the flag reads as written, and the frame follows the two updates. -/
theorem keySetWritesOneFlag : Obligations.KeySetWritesOneFlag := by
  intro s q k pressed hq
  have hflag : (keySet k pressed (s.setQueue q)).keyDown k = pressed :=
    (State.keyDown_setKey _ k k pressed).trans (if_pos rfl)
  refine ⟨keySet k pressed (s.setQueue q), step_of_event hq, hflag, rfl, ?_⟩
  exact ((OnlyChanges.refl s _).setQueue (by simp) q).setKey (by simp) pressed

/-- Settles O34: the event is emitted at `A`, before `pc` goes on to `A + 2`. -/
theorem unimplEmitsEvent : Obligations.UnimplEmitsEvent := by
  intro s w
  refine ⟨(s.emit w).advance, rfl, rfl, rfl, rfl, ?_⟩
  exact ((OnlyChanges.refl s _).emit (by simp) w).goto (by simp) (by simp) _

end Sys2Proof.Machine
end

section
/-! Jumps, skips, calls and returns (spec R100 to R108). -/

namespace Sys2Proof.Machine

/-! ### Jumps and skips -/

/-- R92: going on at an address writes `pc` and `mode` alone. -/
theorem goto_onlyChanges (s : State) (a : Word) : OnlyChanges s (s.goto a) (· ∈ [.pc, .mode]) :=
  (OnlyChanges.refl s _).goto (by simp) (by simp) a

/-- R108: the sum fits in 16 bits. -/
theorem indexedTarget_toNat (nnn : Addr) (a : Byte) : (indexedTarget nnn a).toNat = nnn.toNat + a.toNat := by
  have := nnn.isLt
  have := a.isLt
  simp only [indexedTarget, BitVec.toNat_add, nnnValue_toNat, BitVec.toNat_setWidth]
  omega

/-- R107: a skip on equality. -/
theorem skipIf_beq_pc (s : State) (a b : Byte) :
    (s.skipIf (a == b)).pc = if a = b then s.pc + 4 else s.pc + 2 := by
  simp

/-- R107: a skip on inequality. -/
theorem skipIf_bne_pc (s : State) (a b : Byte) :
    (s.skipIf (a != b)).pc = if a = b then s.pc + 2 else s.pc + 4 := by
  by_cases h : a = b <;> simp [h]

/-- Settles O27: the target is `nnn` zero-extended. -/
theorem jpJumps : Obligations.JpJumps := by
  intro s nnn
  exact ⟨s.goto (nnnValue nnn), rfl, nnnValue_toNat nnn, rfl, goto_onlyChanges s _⟩

/-- Settles O31: each skip is decided by one comparison with the immediate. -/
theorem immediateSkips : Obligations.ImmediateSkips := by
  intro s x kk
  exact ⟨⟨s.skipIf (s.reg x == kk), rfl, skipIf_beq_pc s _ _, rfl, goto_onlyChanges s _⟩,
    ⟨s.skipIf (s.reg x != kk), rfl, skipIf_bne_pc s _ _, rfl, goto_onlyChanges s _⟩⟩

/-- Settles O32: each skip is decided by one comparison of the two registers. -/
theorem registerSkips : Obligations.RegisterSkips := by
  intro s x y
  exact ⟨⟨s.skipIf (s.reg x == s.reg y), rfl, skipIf_beq_pc s _ _, rfl, goto_onlyChanges s _⟩,
    ⟨s.skipIf (s.reg x != s.reg y), rfl, skipIf_bne_pc s _ _, rfl, goto_onlyChanges s _⟩⟩

/-- Settles O33: a 12-bit and an 8-bit value add up within 16 bits. -/
theorem jpV0AddsV0 : Obligations.JpV0AddsV0 := by
  intro s nnn
  exact ⟨s.goto (indexedTarget nnn (s.reg 0)), rfl, indexedTarget_toNat nnn _, rfl, goto_onlyChanges s _⟩

/-! ### Calls and returns

The two cases in which `sp` leaves room or an entry, with the entry as a `Fin 16`. -/

/-- R102: a call with `k` entries in use. -/
theorem exec_call_of_sp {s : State} {k : Fin 16} (hsp : s.sp.val = k.val) (nnn : Addr) :
    exec (.call nnn) s =
      .next (State.goto { s with stack := s.stack.set k (s.pc + 2), sp := k.succ } (nnnValue nnn)) := by
  obtain ⟨v, i, pc, sp, stack⟩ := s
  obtain rfl : sp = k.castSucc := Fin.ext hsp
  exact execCall_of_lt nnn k.isLt

/-- R100: a return with `k + 1` entries in use. -/
theorem exec_ret_of_sp {s : State} {k : Fin 16} (hsp : s.sp.val = k.val + 1) :
    exec .ret s = .next (State.goto { s with sp := k.castSucc } s.stack[k]) := by
  have hpos : s.sp.val ≠ 0 := by omega
  obtain ⟨v, i, pc, sp, stack⟩ := s
  obtain rfl : sp = k.succ := Fin.ext hsp
  exact execRet_of_pos hpos

/-- A part that reads the same after each of two instructions reads the same after both. -/
theorem Part.Same.trans {s t u : State} {p : Part} (hst : p.Same s t) (htu : p.Same t u) : p.Same s u := by
  cases p with
  | _ => exact Eq.trans htu hst

/-- Settles O25: the entry popped is `stack[k]`, and the frame follows the pop and the jump. -/
theorem retPops : Obligations.RetPops := by
  intro s k hsp
  refine ⟨_, exec_ret_of_sp hsp, rfl, rfl, rfl, ?_⟩
  exact ((OnlyChanges.refl s _).popped (by simp) k.castSucc).goto (by simp) (by simp) _

/-- Settles O28: the entry pushed reads back as `A + 2`, and the frame follows the push and the jump. -/
theorem callPushes : Obligations.CallPushes := by
  intro s nnn k hsp
  refine ⟨_, exec_call_of_sp hsp nnn, Vector.getElem_set_self _, rfl, nnnValue_toNat nnn, rfl, ?_⟩
  exact ((OnlyChanges.refl s _).pushed (by simp) (by simp) (s.pc + 2) k.succ).goto (by simp) (by simp) _

/-- Settles O30: the return pops the entry that the call pushed. Of what the two write, `sp` is back at `k`. -/
theorem callThenRetComesBack : Obligations.CallThenRetComesBack := by
  intro s nnn k hsp
  obtain ⟨t, hcall, hentry, htsp, -, -, hcallFrame⟩ := callPushes s nnn k hsp
  obtain ⟨u, hret, hpc, husp, -, hretFrame⟩ := retPops t k htsp
  refine ⟨t, u, hcall, hret, hpc.trans hentry, fun p hp => ?_⟩
  by_cases hp_sp : p = .sp
  · subst hp_sp
    exact Fin.ext (husp.trans hsp.symm)
  · simp only [List.mem_cons, not_or] at hp
    exact (hcallFrame p (by simp [hp, hp_sp])).trans (hretFrame p (by simp [hp, hp_sp]))

end Sys2Proof.Machine
end

section
/-! Register file and ALU (spec R93, R121 to R132). -/

namespace Sys2Proof.Machine

/-! ### How an ALU instruction ends (R91, R92, R93)

A result written to one register, or a flag written to VF and then a result; then the default advance. -/

theorem reg_setReg_advance (s : State) (x : Reg) (b : Byte) : (s.setReg x b).advance.reg x = b :=
  (State.reg_setReg s x x b).trans (if_pos rfl)

theorem setReg_advance_onlyChanges (s : State) (x : Reg) (b : Byte) :
    OnlyChanges s (s.setReg x b).advance (· ∈ [.reg x, .pc, .mode]) :=
  ((OnlyChanges.refl s _).setReg (by simp) b).goto (by simp) (by simp) _

/-- R93(b): the result is written last, so it remains for every `x` (D3). -/
theorem reg_setFlagged_advance (s : State) (x : Reg) (flag result : Byte) :
    (s.setFlagged x flag result).advance.reg x = result :=
  reg_setReg_advance (s.setReg vf flag) x result

/-- R93(b): the result does not overwrite the flag when `x` is not VF. -/
theorem vf_setFlagged_advance (s : State) {x : Reg} (hx : x ≠ vf) (flag result : Byte) :
    (s.setFlagged x flag result).advance.reg vf = flag :=
  calc (s.setFlagged x flag result).advance.reg vf
    _ = (s.setReg vf flag).reg vf := (State.reg_setReg _ x vf result).trans (if_neg hx.symm)
    _ = flag := (State.reg_setReg s vf vf flag).trans (if_pos rfl)

theorem setFlagged_advance_onlyChanges (s : State) (x : Reg) (flag result : Byte) :
    OnlyChanges s (s.setFlagged x flag result).advance (· ∈ [.reg x, .reg vf, .pc, .mode]) :=
  (((OnlyChanges.refl s _).setReg (by simp) flag).setReg (by simp) result).goto (by simp) (by simp) _

/-! ### Values and flags in arithmetic -/

/-- R128, R130: the difference mod 256. -/
theorem sub_toNat (a b : Byte) : (a - b).toNat = (a.toNat + 256 - b.toNat) % 256 := by
  have := b.isLt
  rw [BitVec.toNat_sub]
  omega

theorem carryFlag_eq (a b : Byte) : carryFlag a b = if a.toNat + b.toNat > 255 then 1 else 0 := by
  simp [carryFlag, flagByte_eq]

theorem greaterFlag_eq (a b : Byte) : greaterFlag a b = if a.toNat > b.toNat then 1 else 0 := by
  simp [greaterFlag, flagByte_eq]

/-- R129: bit 0 of the source. -/
theorem shiftRightFlag_toNat (src : Byte) : (shiftRightFlag src).toNat = src.toNat % 2 :=
  Nat.and_one_is_mod _

/-- R131: bit 7 is all that is left of a byte above its low seven bits. -/
theorem shiftLeftFlag_toNat (src : Byte) : (shiftLeftFlag src).toNat = src.toNat / 128 := by
  have hsrc := src.isLt
  calc (shiftLeftFlag src).toNat
    _ = (src.toNat >>> 7) % 2 := Nat.and_one_is_mod _
    _ = src.toNat / 128 := by rw [Nat.shiftRight_eq_div_pow]; omega

/-! ### One register written, no flag -/

/-- Settles O35: the immediate is written to register `x`. -/
theorem ldImmLoads : Obligations.LdImmLoads := by
  intro s x kk
  exact ⟨(s.setReg x kk).advance, rfl, reg_setReg_advance s x kk, rfl, rfl, setReg_advance_onlyChanges s x kk⟩

/-- Settles O36: the sum of two bytes is taken mod 256, and no flag is among the writes. -/
theorem addImmWraps : Obligations.AddImmWraps := by
  intro s x kk
  refine ⟨(s.setReg x (s.reg x + kk)).advance, rfl, ?_, rfl, rfl, setReg_advance_onlyChanges s x _⟩
  rw [reg_setReg_advance, BitVec.toNat_add]

/-- Settles O37: the value of register `y` is written to register `x`. -/
theorem ldRegCopies : Obligations.LdRegCopies := by
  intro s x y
  exact ⟨(s.setReg x (s.reg y)).advance, rfl, reg_setReg_advance s x _, rfl, rfl, setReg_advance_onlyChanges s x _⟩

/-- Settles O38: each bit of the result is the operation on that bit of the operands. -/
theorem logicBitwise : Obligations.LogicBitwise := by
  intro s x y
  refine ⟨⟨(s.setReg x (s.reg x ||| s.reg y)).advance, rfl, fun k => ?_, rfl, rfl, setReg_advance_onlyChanges s x _⟩,
    ⟨(s.setReg x (s.reg x &&& s.reg y)).advance, rfl, fun k => ?_, rfl, rfl, setReg_advance_onlyChanges s x _⟩,
    ⟨(s.setReg x (s.reg x ^^^ s.reg y)).advance, rfl, fun k => ?_, rfl, rfl, setReg_advance_onlyChanges s x _⟩⟩
  · rw [reg_setReg_advance, BitVec.getLsbD_or]
  · rw [reg_setReg_advance, BitVec.getLsbD_and]
  · rw [reg_setReg_advance, BitVec.getLsbD_xor]

/-- Settles O43: the byte at the old place is masked, and the draw moves the place on by one. -/
theorem rndMasksFreeByte : Obligations.RndMasksFreeByte := by
  intro s x kk
  refine ⟨(s.drawn.setReg x (s.freshByte &&& kk)).advance, rfl, fun k => ?_, rfl, rfl, rfl, ?_⟩
  · rw [reg_setReg_advance, BitVec.getLsbD_and, State.freshByte]
  · exact (((OnlyChanges.refl s _).drawn (by simp)).setReg (by simp) _).goto (by simp) (by simp) _

/-! ### A flag in VF, then the result -/

/-- Settles O39: the sum mod 256, and the carry of the latched operands. -/
theorem addRegSumAndCarry : Obligations.AddRegSumAndCarry := by
  intro s x y
  refine ⟨(s.setFlagged x (carryFlag (s.reg x) (s.reg y)) (s.reg x + s.reg y)).advance, rfl, ?_, fun hx => ?_, rfl, rfl,
    setFlagged_advance_onlyChanges s x _ _⟩
  · rw [reg_setFlagged_advance, BitVec.toNat_add]
  · rw [vf_setFlagged_advance s hx, carryFlag_eq]

/-- The two subtractions are one, with the operands `a` and `b` in either order. -/
theorem subtract_spec (s : State) (x : Reg) (a b : Byte) :
    let t := (s.setFlagged x (greaterFlag a b) (a - b)).advance
    (t.reg x).toNat = (a.toNat + 256 - b.toNat) % 256 ∧
    (x ≠ vf → t.reg vf = if a.toNat > b.toNat then 1 else 0) ∧
    t.pc = s.pc + 2 ∧ t.mode = .running ∧ OnlyChanges s t (· ∈ [.reg x, .reg vf, .pc, .mode]) := by
  refine ⟨?_, fun hx => ?_, rfl, rfl, setFlagged_advance_onlyChanges s x _ _⟩
  · rw [reg_setFlagged_advance, sub_toNat]
  · rw [vf_setFlagged_advance s hx, greaterFlag_eq]

/-- Settles O40: `8xy5` subtracts `v[y]` from `v[x]`, `8xy7` the other way round. -/
theorem subtractionsAndFlag : Obligations.SubtractionsAndFlag := fun s x y =>
  ⟨⟨_, rfl, subtract_spec s x (s.reg x) (s.reg y)⟩, ⟨_, rfl, subtract_spec s x (s.reg y) (s.reg x)⟩⟩

/-- Settles O41: half the source the quirk names, and its bit 0. -/
theorem shrHalves : Obligations.ShrHalves := by
  intro s x y
  refine ⟨_, rfl, ?_, fun hx => ?_, rfl, rfl, setFlagged_advance_onlyChanges s x _ _⟩
  · rw [reg_setFlagged_advance, BitVec.toNat_ushiftRight, Nat.shiftRight_one, shiftSource]
  · rw [vf_setFlagged_advance s hx, shiftRightFlag_toNat, shiftSource]

/-- Settles O42: twice the source the quirk names, and its bit 7. -/
theorem shlDoubles : Obligations.ShlDoubles := by
  intro s x y
  refine ⟨_, rfl, ?_, fun hx => ?_, rfl, rfl, setFlagged_advance_onlyChanges s x _ _⟩
  · rw [reg_setFlagged_advance, BitVec.toNat_shiftLeft, Nat.shiftLeft_eq, shiftSource]
  · rw [vf_setFlagged_advance s hx, shiftLeftFlag_toNat, shiftSource]

end Sys2Proof.Machine
end

section
/-! Index register, loads and stores (spec R140 to R145). -/

namespace Sys2Proof.Machine

/-! ### The index register (R140 to R142) -/

theorem setI_advance_onlyChanges (s : State) (a : Word) : OnlyChanges s (s.setI a).advance (· ∈ [.i, .pc, .mode]) :=
  ((OnlyChanges.refl s _).setI (by simp) a).goto (by simp) (by simp) _

/-- R141: the sum mod 65536. -/
theorem indexPlus_toNat (i : Word) (a : Byte) : (indexPlus i a).toNat = (i.toNat + a.toNat) % 65536 := by
  have := a.isLt
  simp only [indexPlus, BitVec.toNat_add, BitVec.toNat_setWidth]
  omega

/-- R142: five times a byte fits in 16 bits. -/
theorem glyphAddress_toNat (a : Byte) : (glyphAddress a).toNat = 5 * a.toNat := by
  have := a.isLt
  simp only [glyphAddress, BitVec.ofNat_eq_ofNat, BitVec.toNat_mul, BitVec.toNat_setWidth, BitVec.toNat_ofNat]
  omega

/-- R144, R145: the index after a block transfer, for either value of the quirk. -/
theorem blockIndex_toNat (advances : Bool) (i : Word) (x : Reg) : (blockIndex advances i x).toNat =
    if advances then (i.toNat + x.val + 1) % 65536 else i.toNat := by
  cases advances with
  | false => rfl
  | true =>
    simp only [blockIndex, if_true, BitVec.toNat_add, BitVec.toNat_ofNat]
    omega

/-- Settles O44: the index is `nnn` zero-extended. -/
theorem ldISetsIndex : Obligations.LdISetsIndex := by
  intro s nnn
  exact ⟨(s.setI (nnnValue nnn)).advance, rfl, nnnValue_toNat nnn, rfl, rfl, setI_advance_onlyChanges s _⟩

/-- Settles O45: the sum is taken mod 65536, and no register is among the writes. -/
theorem addIWraps : Obligations.AddIWraps := by
  intro s x
  exact ⟨(s.setI (indexPlus s.i (s.reg x))).advance, rfl, indexPlus_toNat _ _, rfl, rfl, setI_advance_onlyChanges s _⟩

/-- Settles O46: the product of 5 and a byte does not wrap. -/
theorem ldFPointsAtGlyph : Obligations.LdFPointsAtGlyph := by
  intro s x
  exact ⟨(s.setI (glyphAddress (s.reg x))).advance, rfl, glyphAddress_toNat _, rfl, rfl, setI_advance_onlyChanges s _⟩

/-! ### Bytes stored from `ea(0)` on (R54, R55) -/

/-- The `k`-th byte stored reads back at `ea(k)`. -/
theorem Memory.read_storeFrom_getElem {m : Memory} {bs : List Byte} (hm : m.wf = true) (hlen : bs.length ≤ 4096)
    (i : Word) {k : Nat} (hk : k < bs.length) : (m.storeFrom i 0 bs).read (ea i k).toNat = bs[k] := by
  have hstored := (read_storeFrom i bs 0 hm (by omega)).1 k hk
  rwa [Nat.zero_add] at hstored

/-- A byte at none of the addresses stored to reads as before. -/
theorem Memory.read_storeFrom_of_ne {m : Memory} {bs : List Byte} (hm : m.wf = true) (hlen : bs.length ≤ 4096)
    {i : Word} {a : Nat} (ha : ∀ k < bs.length, a ≠ (ea i k).toNat) : (m.storeFrom i 0 bs).read a = m.read a :=
  (read_storeFrom i bs 0 hm (by omega)).2 a fun k hk => by
    rw [Nat.zero_add]
    exact ha k hk

/-- The stores of one instruction write RAM at `ea(0)`, `ea(1)`, ... alone. -/
theorem OnlyChanges.store {s t : State} {P : Part → Prop} (h : OnlyChanges s t P) {bs : List Byte}
    (hm : t.mem.wf = true) (hlen : bs.length ≤ 4096) {i : Word} (hP : ∀ k < bs.length, P (.ram (ea i k).toNat)) :
    OnlyChanges s (t.setMem (t.mem.storeFrom i 0 bs)) P :=
  h.setMem fun _ ha => Memory.read_storeFrom_of_ne hm hlen fun k hk e => ha (e ▸ hP k hk)

/-- R9: the digits of a byte as numbers. -/
theorem bcdDigits_toNat (a : Byte) : (bcdDigits a)[0].toNat = a.toNat / 100 ∧
    (bcdDigits a)[1].toNat = a.toNat / 10 % 10 ∧ (bcdDigits a)[2].toNat = a.toNat % 10 := by
  simp [bcdDigits]

/-- Settles O47: the bytes stored are the three digits. -/
theorem ldBStoresDigits : Obligations.LdBStoresDigits := by
  intro s x hm
  have hstored (k : Nat) (hk : k < 3) :
      ((s.mem.storeFrom s.i 0 (bcdDigits (s.reg x))).read (ea s.i k).toNat).toNat = (bcdDigits (s.reg x))[k].toNat :=
    congrArg BitVec.toNat (Memory.read_storeFrom_getElem hm (by simp) s.i hk)
  obtain ⟨hundreds, tens, ones⟩ := bcdDigits_toNat (s.reg x)
  refine ⟨_, rfl, (hstored 0 (by decide)).trans hundreds, (hstored 1 (by decide)).trans tens,
    (hstored 2 (by decide)).trans ones, rfl, rfl, ?_⟩
  exact ((OnlyChanges.refl s _).store hm (by simp) fun k hk => .inr ⟨k, hk, rfl⟩).goto (by simp) (by simp) _

/-- Settles O48: the bytes stored are the latched registers, `v[0]` to `v[x]`. -/
theorem storeRegsStores : Obligations.StoreRegsStores := by
  intro s x hm
  have hlen := s.regsUpTo_length x
  refine ⟨_, rfl, fun k hk => Memory.read_storeFrom_regsUpTo hm hk, blockIndex_toNat storeReadAdvancesI s.i x, rfl, rfl,
    ?_⟩
  exact (((OnlyChanges.refl s _).store hm (by omega) fun k hk => .inr ⟨k, by omega, rfl⟩).setI (by simp) _).goto
    (by simp) (by simp) _

/-- Settles O49: a register up to `x` receives its byte, and one above `x` keeps its value. -/
theorem loadRegsLoads : Obligations.LoadRegsLoads := by
  intro s x
  refine ⟨_, rfl, fun k hk => ?_, blockIndex_toNat storeReadAdvancesI s.i x, rfl, rfl, ?_⟩
  · exact (State.reg_setRegs s (s.loadedReg x) k).trans (if_pos hk)
  · exact (((OnlyChanges.refl s _).setRegs fun z hz => if_neg fun hle => hz (.inr ⟨z, hle, rfl⟩)).setI (by simp) _).goto
      (by simp) (by simp) _

end Sys2Proof.Machine
end

section
/-! Display (spec R150 to R153). -/

namespace Sys2Proof.Machine

/-! ### Sets of toggled cells -/

/-- Drawing from a cleared flag: it tells whether a toggled cell was lit. -/
theorem Toggles.flag_iff {d : Display} {b : Display × Bool} {S : Fin 64 → Fin 32 → Prop} (h : Toggles (d, false) b S) :
    b.2 = true ↔ ∃ px py, S px py ∧ d.cell px py = true := by
  obtain ⟨-, -, hflag⟩ := h
  simpa using hflag

/-- Toggling the same cells twice restores each of them. -/
theorem Toggles.twice_display {d : Display} {b c : Display × Bool} {S : Fin 64 → Fin 32 → Prop}
    (h : Toggles (d, false) b S) (k : Toggles (b.1, false) c S) : c.1 = d := by
  obtain ⟨hIn, hOut, -⟩ := h
  obtain ⟨kIn, kOut, -⟩ := k
  refine Display.ext_cell fun px py => ?_
  by_cases hS : S px py
  · rw [kIn _ _ hS, hIn _ _ hS, Bool.not_not]
  · rw [kOut _ _ hS, hOut _ _ hS]

/-- The second time, the cells found lit are those that the first time found unlit. -/
theorem Toggles.twice_flag_iff {d : Display} {b c : Display × Bool} {S : Fin 64 → Fin 32 → Prop}
    (h : Toggles (d, false) b S) (k : Toggles (b.1, false) c S) :
    c.2 = true ↔ ∃ px py, S px py ∧ d.cell px py = false := by
  obtain ⟨hIn, -, -⟩ := h
  have hlit (px py) : S px py ∧ b.1.cell px py = true ↔ S px py ∧ d.cell px py = false :=
    and_congr_right fun hS => by rw [hIn _ _ hS, Bool.not_eq_true']
  simp only [k.flag_iff, hlit]

/-! ### Sprites -/

/-- R153(b): a sprite has at most 15 rows, so it toggles each cell of its wrapped mask once. -/
theorem Display.drawSprite_toggles_covers (d : Display) (rows : Nat → Byte) (xs ys : Nat) (n : Fin 16) :
    Toggles (d, false) (d.drawSprite rows xs ys n.val) (SpriteCovers rows xs ys n.val) :=
  d.drawSprite_toggles rows xs ys n.val (by omega)

/-- R152: the mask that `Dxyn` draws, from the state before the instruction (D2, D9). -/
theorem State.sprite_toggles (s : State) (x y : Reg) (n : Fin 16) :
    Toggles (s.disp, false) (s.sprite x y n)
      (SpriteCovers (fun row => s.ram (ea s.i row).toNat) (s.reg x).toNat (s.reg y).toNat n.val) :=
  s.disp.drawSprite_toggles_covers s.dataByte _ _ n

/-- Settles O52: both draws toggle the same cells. -/
theorem drawTwiceRestores : Obligations.DrawTwiceRestores := by
  intro d rows xs ys n
  have first := d.drawSprite_toggles_covers rows xs ys n
  have second := (d.drawSprite rows xs ys n.val).1.drawSprite_toggles_covers rows xs ys n
  exact ⟨first.twice_display second, first.twice_flag_iff second⟩

/-! ### The two instructions -/

/-- R152: VF receives the collision flag. -/
theorem reg_vf_of_exec_drw {s t : State} {x y : Reg} {n : Fin 16} (h : exec (.drw x y n) s = .next t) :
    t.reg vf = if (s.sprite x y n).2 then 1 else 0 := by
  cases h
  exact (reg_setReg_advance s vf _).trans (flagByte_eq _)

/-- Settles O50: the cleared display has no lit cell, and VF is not among the writes. -/
theorem clsClears : Obligations.ClsClears := by
  intro s
  refine ⟨(s.setDisp .cleared).advance, rfl, Display.cell_cleared, rfl, rfl, ?_⟩
  exact ((OnlyChanges.refl s _).setDisp fun px py hp => absurd (.inr ⟨px, py, rfl⟩) hp).goto (by simp) (by simp) _

/-- Settles O51: the sprite's mask is toggled, and the flag that VF receives tells whether a cell of it was lit. -/
theorem drwXorsWrappedSprite : Obligations.DrwXorsWrappedSprite := by
  intro s x y n
  have hflag := (s.sprite_toggles x y n).flag_iff
  obtain ⟨hIn, hOut, -⟩ := s.sprite_toggles x y n
  refine ⟨_, rfl, hIn, fun hlit => ?_, fun hunlit => ?_, rfl, rfl, ?_⟩
  · exact (reg_vf_of_exec_drw rfl).trans (if_pos (hflag.2 hlit))
  · refine (reg_vf_of_exec_drw rfl).trans (if_neg fun hcollides => ?_)
    obtain ⟨px, py, hcov, hlit⟩ := hflag.1 hcollides
    exact Bool.false_ne_true ((hunlit px py hcov).symm.trans hlit)
  · exact (((OnlyChanges.refl s _).setReg (by simp) _).setDisp fun px py hp =>
      hOut px py fun hcov => hp (.inr ⟨px, py, rfl, hcov⟩)).goto (by simp) (by simp) _

/-- Settles O53: after `00E0` no cell under the sprite is lit. -/
theorem noCollisionAfterCls : Obligations.NoCollisionAfterCls := by
  intro s x y n
  obtain ⟨t, hcls, hoff, -⟩ := clsClears s
  obtain ⟨u, hdrw, -, -, hunlit, -⟩ := drwXorsWrappedSprite t x y n
  exact ⟨t, u, hcls, hdrw, hunlit fun px py _ => hoff px py⟩

end Sys2Proof.Machine
end

section
/-! Keypad and timers (spec R160 to R166). -/

namespace Sys2Proof.Machine

/-! ### The keypad (R160 to R162, R166) -/

/-- R166, D11: the only key index with the value `a mod 16`. -/
theorem keyIndex_eq {a : Byte} {k : Fin 16} (h : k.val = a.toNat % 16) : keyIndex a = k := Fin.ext h.symm

/-- R107: a skip on the negation of a condition. -/
theorem skipIf_not_pc (s : State) (c : Bool) : (s.skipIf !c).pc = if c = true then s.pc + 2 else s.pc + 4 := by
  cases c <;> rfl

/-- Settles O54: both skips test the flag of the reduced index, the second one negated. -/
theorem keySkips : Obligations.KeySkips := by
  intro s x k hk
  obtain rfl := keyIndex_eq hk
  exact ⟨⟨s.skipIf (s.keyDown _), rfl, rfl, rfl, goto_onlyChanges s _⟩,
    ⟨s.skipIf (!s.keyDown _), rfl, skipIf_not_pc s _, rfl, goto_onlyChanges s _⟩⟩

/-- R162: a key's index fits in a byte. -/
theorem keyByte_toNat (k : Fin 16) : (BitVec.ofNat 8 k.val).toNat = k.val := by
  rw [BitVec.toNat_ofNat]
  omega

/-- Settles O55: the least key that is down is the one `lowestKey` finds, and with none down the instruction stalls. -/
theorem ldVxKTakesLowestKey : Obligations.LdVxKTakesLowestKey := by
  intro s x
  refine ⟨fun k hdown hleast => ?_, fun hnone => ?_⟩
  · have hkey : s.lowestKey = some k := State.lowestKey_eq_some.2 ⟨hdown, hleast⟩
    refine ⟨_, execLdVxK_of_some x hkey, ?_, rfl, rfl, setReg_advance_onlyChanges s x _⟩
    rw [reg_setReg_advance, keyByte_toNat]
  · have hkey : s.lowestKey = none := State.lowestKey_eq_none.2 hnone
    exact ⟨s.stall, execLdVxK_of_none x hkey, rfl, (OnlyChanges.refl s _).stall rfl⟩

/-! ### The timers (R163 to R165) -/

/-- Settles O56: each move writes its one destination and goes on. -/
theorem timerMoves : Obligations.TimerMoves := by
  intro s x
  refine ⟨⟨(s.setReg x s.dt).advance, rfl, reg_setReg_advance s x _, rfl, rfl, setReg_advance_onlyChanges s x _⟩,
    ⟨(s.setDt (s.reg x)).advance, rfl, rfl, rfl, rfl, ?_⟩, ⟨(s.setSt (s.reg x)).advance, rfl, rfl, rfl, rfl, ?_⟩⟩
  · exact ((OnlyChanges.refl s _).setDt (by simp) _).goto (by simp) (by simp) _
  · exact ((OnlyChanges.refl s _).setSt (by simp) _).goto (by simp) (by simp) _

end Sys2Proof.Machine
end

section
/-! Fatal faults and the halted machine (spec R31, R171 to R174, R180). -/

namespace Sys2Proof.Machine

/-! ### Stack faults (R173, R174) -/

/-- R171: taking a fatal fault writes `halt` alone. -/
theorem raiseHalt_onlyChanges (s : State) (c : HaltCause) : OnlyChanges s (s.raiseHalt c) (· = .halt) :=
  (OnlyChanges.refl s (· = .halt)).raiseHalt rfl c

/-- Settles O26: with nothing to pop, a return is the fault. -/
theorem retUnderflow : Obligations.RetUnderflow := by
  intro s hsp
  exact ⟨s.raiseHalt .stackUnderflow, execRet_of_empty hsp, rfl, rfl, raiseHalt_onlyChanges s _⟩

/-- Settles O29: with no room to push, a call is the fault. -/
theorem callOverflow : Obligations.CallOverflow := by
  intro s nnn hsp
  exact ⟨s.raiseHalt .stackOverflow, execCall_of_full nnn hsp, rfl, rfl, raiseHalt_onlyChanges s _⟩

/-! ### The halted machine (R31, R180) -/

/-- A frame may name more parts. -/
theorem OnlyChanges.mono {s t : State} {P Q : Part → Prop} (h : OnlyChanges s t P) (hPQ : ∀ p, P p → Q p) :
    OnlyChanges s t Q :=
  fun p hp => h p fun hP => hp (hPQ p hP)

/-- R31: an explicit Cycle leaves the queue of a halted machine and does nothing else. -/
theorem step_of_cycle_halted {s : State} {q : List HostEvent} (hhalt : s.halt ≠ .none)
    (hq : s.hostQueue = .cycle :: q) : step s = .next (s.setQueue q) :=
  (step_of_cycle hq).trans (cycle_of_halted (s := s.setQueue q) hhalt)

/-- R180: what a halted machine makes of any event but Reset stays within the timers, the keypad and the queue. -/
theorem step_of_halted_frame {s : State} {e : HostEvent} {q : List HostEvent} (hhalt : s.halt ≠ .none)
    (hq : s.hostQueue = e :: q) (hreset : ∀ rom, e ≠ .reset rom) : ∃ t, step s = .next t ∧ t.hostQueue = q ∧
      OnlyChanges s t (fun p => p ∈ [.dt, .st, .hostQueue] ∨ ∃ k, p = .key k) := by
  cases e with
  | reset rom => exact absurd rfl (hreset rom)
  | cycle =>
    exact ⟨s.setQueue q, step_of_cycle_halted hhalt hq, rfl, (OnlyChanges.refl s _).setQueue (by simp) q⟩
  | tick =>
    obtain ⟨t, hstep, -, -, hqueue, hframe⟩ := tickCountsDown s q hq
    exact ⟨t, hstep, hqueue, hframe.mono fun _ => .inl⟩
  | keySet k pressed =>
    obtain ⟨t, hstep, -, hqueue, hframe⟩ := keySetWritesOneFlag s q k pressed hq
    refine ⟨t, hstep, hqueue, hframe.mono fun p hp => ?_⟩
    obtain rfl | rfl : p = .key k ∨ p = .hostQueue := by simpa using hp
    · exact .inr ⟨k, rfl⟩
    · exact .inl (by simp)

/-- R190: a Reset whose ROM fits clears `halt`. -/
theorem resetWith_halt_of_fits {rom : List Byte} (hfit : rom.length ≤ 3584) (s : State) :
    (resetWith rom s).halt = .none := if_pos hfit

/-- Settles O10: a halted Cycle does nothing, Tick and KeySet act as in any state, and Reset alone writes `halt`. -/
theorem haltedUntilReset : Obligations.HaltedUntilReset := by
  intro s hhalt
  refine ⟨fun hq => (step_of_empty hq).trans (cycle_of_halted hhalt), fun q => step_of_cycle_halted hhalt,
    tickCountsDown s, keySetWritesOneFlag s, fun e q => step_of_halted_frame hhalt, fun q rom hq hfit => ?_⟩
  exact ⟨resetWith rom (s.setQueue q), step_of_event hq, resetWith_halt_of_fits hfit _⟩

end Sys2Proof.Machine
end

section
/-! Reset (spec R190 to R192). -/

namespace Sys2Proof.Machine

/-! ### RAM that nothing is listed in (R37, R38) -/

/-- R38: unlisted, the first 80 addresses read as the font. -/
theorem Memory.unlisted_of_font (k : Fin 80) : unlisted k.val = fontByte k := dif_pos k.isLt

/-- R37: unlisted, every address past the font reads as zero. -/
theorem Memory.unlisted_of_ge {a : Nat} (ha : 0x050 ≤ a) : unlisted a = 0 := dif_neg (Nat.not_lt.2 ha)

/-! ### What any Reset leaves in the registers, on the display and in the keypad (R190, D12) -/

theorem resetWith_reg (rom : List Byte) (s : State) (x : Reg) : (resetWith rom s).reg x = 0 :=
  Vector.getElem_replicate x.isLt

theorem resetWith_stack (rom : List Byte) (s : State) (k : Fin 16) : (resetWith rom s).stack[k] = 0 :=
  Vector.getElem_replicate k.isLt

theorem resetWith_pixel (rom : List Byte) (s : State) (px : Fin 64) (py : Fin 32) :
    (resetWith rom s).pixel px py = false := Display.cell_cleared px py

theorem resetWith_keyDown (rom : List Byte) (s : State) (k : Fin 16) : (resetWith rom s).keyDown k = false :=
  Vector.getElem_replicate k.isLt

/-! ### A ROM that fits (R191) -/

section
variable {rom : List Byte} (hfit : rom.length ≤ 3584) (s : State)
include hfit

/-- R191: RAM after a Reset is the image of the ROM. -/
theorem resetWith_mem_of_fits : (resetWith rom s).mem = Memory.image 0x200 rom := if_pos hfit

/-- R191: the ROM stands in RAM verbatim from 0x200. -/
theorem resetWith_ram_rom {k : Nat} (hk : k < rom.length) : (resetWith rom s).ram (0x200 + k) = rom[k] := by
  rw [State.ram, resetWith_mem_of_fits hfit, Memory.read_image rom 0x200 (by omega), dif_pos (by omega)]
  simp only [Nat.add_sub_cancel_left]

/-- R190: beside the ROM, RAM reads as with nothing listed. -/
theorem resetWith_ram_outside {a : Nat} (ha : a < 0x200 ∨ 0x200 + rom.length ≤ a) :
    (resetWith rom s).ram a = Memory.unlisted a := by
  rw [State.ram, resetWith_mem_of_fits hfit, Memory.read_image rom 0x200 (by omega), dif_neg (by omega)]

end

/-- Settles O14: RAM is the ROM's image over the font and zeros, and no other register depends on the ROM. -/
theorem resetLoadsRom : Obligations.ResetLoadsRom := by
  intro s q rom hq hfit
  refine ⟨resetWith rom (s.setQueue q), step_of_event hq, fun k => ?_, fun a hfont ha => ?_,
    fun k => resetWith_ram_rom hfit _, fun a ha => ?_, rfl, resetWith_halt_of_fits hfit _, rfl, resetWith_reg rom _,
    rfl, rfl, resetWith_stack rom _, rfl, rfl, resetWith_pixel rom _, resetWith_keyDown rom _, rfl, rfl, rfl⟩
  · exact (resetWith_ram_outside hfit _ (.inl (by omega))).trans (Memory.unlisted_of_font k)
  · exact (resetWith_ram_outside hfit _ (.inl ha)).trans (Memory.unlisted_of_ge hfont)
  · exact (resetWith_ram_outside hfit _ (.inr ha)).trans (Memory.unlisted_of_ge (by omega))

/-! ### A ROM that does not fit (R175, R192) -/

section
variable {rom : List Byte} (hlarge : 3584 < rom.length) (s : State)
include hlarge

/-- R192: no byte of the ROM is copied. -/
theorem resetWith_ram_of_oversize (a : Nat) : (resetWith rom s).ram a = Memory.unlisted a :=
  congrArg (Memory.read · a) (if_neg (Nat.not_le.2 hlarge))

/-- R175: the refusal is the fault `LOAD_TOO_LARGE`. -/
theorem resetWith_halt_of_oversize : (resetWith rom s).halt = .loadTooLarge := if_neg (Nat.not_le.2 hlarge)

end

/-- Settles O15: the refusal leaves RAM unlisted and sets `halt`, so the next Cycle finds the machine halted. -/
theorem oversizeRomRefused : Obligations.OversizeRomRefused := by
  intro s q rom hq hlarge
  have hhalt := resetWith_halt_of_oversize hlarge (s.setQueue q)
  have hidle : cycle (resetWith rom (s.setQueue q)) = .next (resetWith rom (s.setQueue q)) :=
    cycle_of_halted (hhalt ▸ nofun)
  refine ⟨resetWith rom (s.setQueue q), step_of_event hq, hhalt, congrArg HaltCause.code hhalt, rfl, rfl, fun k => ?_,
    fun a ha => ?_, resetWith_reg rom _, rfl, rfl, resetWith_stack rom _, rfl, rfl, resetWith_pixel rom _,
    resetWith_keyDown rom _, rfl, rfl, rfl, hidle⟩
  · exact (resetWith_ram_of_oversize hlarge _ k.val).trans (Memory.unlisted_of_font k)
  · exact (resetWith_ram_of_oversize hlarge _ a).trans (Memory.unlisted_of_ge ha)

end Sys2Proof.Machine
end
